-- ==== Sys2Proof/Word.lean ====
section
/-! DEFINITION. The word types of the block (R17, R18 of spec/00_scope.md): registers and command words are 32 bits,
storage holds bytes, the buffer's offsets and counts are 16 bits. Nothing in the block is signed. -/

namespace Sys2Proof

/-- A register, a command word, a bus address, a sample: 32 bits (R36, R60, R90). -/
abbrev Word := BitVec 32

/-- A byte of `storage`, or one half of a divider pair (R24, R35). -/
abbrev Byte := BitVec 8

/-- A byte offset into `storage`, a count of buffered bytes, a packet length (R29, R30, R94). -/
abbrev Half := BitVec 16

end Sys2Proof
end

