-- ==== Sys2Proof/Config.lean ====
section
/-! DEFINITION. What the source fixes (R10), the parameters of an implementation (R11 to R16 of spec/00_scope.md) and
the free values. A configuration that breaks a constraint cannot be written: it carries the proof that it is legal. -/

namespace Sys2Proof

/-- `RATE[0..6]` in hertz, in the order in which the source lists them (R10). -/
def Config.rates : Vector Nat 7 := #v[8000, 11025, 16000, 22050, 32000, 44100, 48000]

/-- `RATE[i]` (R10). -/
def Config.rate (i : Fin 7) : Nat := Config.rates.get i

/-- `MAX_RATE` (R10). -/
def Config.maxRate : Nat := 48000

/-- `CHANNELS` of the buffer and the player (R8, R10). -/
def Config.channels : Nat := 2

/-- `BITS_PER_SAMPLE` of the buffer and the player (R8, R10). -/
def Config.bitsPerSample : Nat := 16

/-- `SAMPLE_BYTES` (R10). -/
def Config.sampleBytes : Nat := 4

/-- `N_MAX`, where the prescale scan starts (R10). -/
def Config.nMax : Nat := 64

/-- `Y_MAX`, where the denominator scan starts (R10). -/
def Config.yMax : Nat := 255

/-- The values of an implementation's parameters, before they are checked. -/
structure Params where
  /-- `REF_CLK_HZ` (R11). -/
  refClkHz : Nat
  /-- `DEFAULT_RATE_INDEX`, `0..6` (R16). -/
  defaultRateIndex : Fin 7
  /-- `CAP[0..6]` in bytes (R12). -/
  cap : Vector Nat 7
  /-- `STORAGE_SIZE` in bytes (R13). -/
  storageSize : Nat
  /-- `STORAGE_BASE` (R16). -/
  storageBase : Nat
  /-- `FIFO_DEPTH` (R15). -/
  fifoDepth : Nat
deriving DecidableEq, Repr

/-- The constraints on the parameters: R11; R12; R13 (`STORAGE_SIZE >= 2 * max(CAP)` is R12's clause for every entry);
R16; R15. The clause `storageBase + storageSize ≤ 2 ^ 32` is DEDUCED from R60 (the address space is 32 bits wide; safe;
log entry 9). -/
abbrev Params.Legal (p : Params) : Prop :=
  (1 ≤ p.refClkHz ∧ p.refClkHz < 2 ^ 32) ∧
  (p.cap.get 3 = 1764 ∧ ∀ i : Fin 7, 4 ≤ p.cap.get i ∧ 2 * p.cap.get i ≤ p.storageSize) ∧
  p.storageSize ≤ 65536 ∧
  (p.storageBase % 4 = 0 ∧ 0x100 ≤ p.storageBase ∧ p.storageBase + p.storageSize ≤ 2 ^ 32) ∧
  (1 ≤ p.fifoDepth ∧ p.fifoDepth ≤ 15)

/-- A legal configuration: "a model must refuse a configuration that breaks one" of the constraints
(spec/00_scope.md section 4), so no other can be built. -/
structure Config where
  params : Params
  legal : params.Legal
deriving DecidableEq, Repr

/-- `REF_CLK_HZ` (R11). -/
abbrev Config.refClkHz (c : Config) : Nat := c.params.refClkHz

/-- `CAP[i]` (R12). -/
abbrev Config.cap (c : Config) (i : Fin 7) : Nat := c.params.cap.get i

/-- `STORAGE_SIZE` (R13). -/
abbrev Config.storageSize (c : Config) : Nat := c.params.storageSize

/-- `STORAGE_BASE` (R16). -/
abbrev Config.storageBase (c : Config) : Nat := c.params.storageBase

/-- `FIFO_DEPTH` (R15). -/
abbrev Config.fifoDepth (c : Config) : Nat := c.params.fifoDepth

/-- Free value: the OPEN parameter `REF_CLK_HZ` less one, so that every value of R11 and no other is possible
(safe; log entry 2). -/
opaque Config.openRefClkLessOne : Fin 4294967295

/-- Free value: the OPEN parameter `DEFAULT_RATE_INDEX` (R16; safe; log entry 2). -/
opaque Config.openDefaultRateIndex : Fin 7

/-- Free value: the byte that offset `k` of `storage` holds after the reset numbered `draw` when nothing has been
written to it since (R35, U2 "drawn at reset, byte by byte"; safe; log entry 3). -/
opaque Config.resetByte (draw k : Nat) : Byte

/-- The defaults this spec gives (R12, R13, R15, R16) around the two OPEN parameters. -/
def Params.withDefaults (refClkHz : Nat) (defaultRateIndex : Fin 7) : Params where
  refClkHz := refClkHz
  defaultRateIndex := defaultRateIndex
  cap := #v[640, 882, 1280, 1764, 2560, 3528, 3840]
  storageSize := 7680
  storageBase := 0x1000
  fifoDepth := 8

/-- The defaults are legal for every legal reference clock. -/
theorem Params.withDefaults_legal {hz : Nat} (d : Fin 7) (h : 1 ≤ hz ∧ hz < 2 ^ 32) :
    (Params.withDefaults hz d).Legal := by
  have size : (7680 : Nat) ≤ 65536 := by decide
  have base : 0x1000 % 4 = 0 ∧ 0x100 ≤ 0x1000 ∧ 0x1000 + 7680 ≤ 2 ^ 32 := by decide
  have depth : 1 ≤ 8 ∧ 8 ≤ 15 := by decide
  refine ⟨h, ⟨rfl, ?_⟩, size, base, depth⟩
  show ∀ i : Fin 7, 4 ≤ (#v[640, 882, 1280, 1764, 2560, 3528, 3840] : Vector Nat 7).get i ∧
    2 * (#v[640, 882, 1280, 1764, 2560, 3528, 3840] : Vector Nat 7).get i ≤ 7680
  decide

/-- The configuration of the machine behind `State.reset`: the OPEN parameters free, the others at the defaults of this
spec (DESIGN CHOICE; log entry 2). -/
def Config.chip : Config where
  params := Params.withDefaults (Config.openRefClkLessOne.val + 1) Config.openDefaultRateIndex
  legal := Params.withDefaults_legal _
    ⟨Nat.le_add_left 1 _, Nat.add_lt_of_lt_sub Config.openRefClkLessOne.isLt⟩

end Sys2Proof
end

