-- ==== Sys2Proof/Syntax.lean ====
section
/-! DEFINITION. The commands of the block, one constructor per row of spec/opcode_table.json (R96 of
spec/30_encoding.md). The block is no processor: an instruction is a command word written to `CMD` (R22, R90). -/

namespace Sys2Proof

/-- Which encoding the rate value in `ARG0` has (the bit `fmt` of R93): 24 bits (`fmt = 0`) or 32 bits (`fmt = 1`). -/
inductive RateFormat where
  | bits24
  | bits32
deriving DecidableEq, Repr

/-- A command. -/
inductive Instr where
  /-- Build the profile table, once (R141). -/
  | init
  /-- Run the solver on `ARG0` and `ARG1` (R140). -/
  | solve
  /-- Change the sample rate to the value in `ARG0` (R191). -/
  | setRate (fmt : RateFormat)
  /-- Report the current sample rate (R192). -/
  | getRate
  /-- The streaming interface became active (R193). -/
  | streamStart
  /-- The streaming interface became inactive (R194). -/
  | streamStop
  /-- Reset the buffer indices (R157). -/
  | bufReset
  /-- Account for a packet of `len` bytes already written (R152). -/
  | submit (len : BitVec 16)
  /-- Refill `n` slots of the transmit FIFO, then evaluate the hysteresis (R171). -/
  | drain (n : BitVec 4)
deriving DecidableEq, Repr

end Sys2Proof
end

