-- ==== Sys2Proof/WellFormed.lean ====
section
/-! DEFINITION. When a command is well formed. The widths of the immediates are in the types of `Instr`; the one check
left is the slot count of `DRAIN`, which the parameter `FIFO_DEPTH` bounds (R95, R98 (c) of spec/30_encoding.md). -/

namespace Sys2Proof

/-- `i` is a command that some legal word encodes when `FIFO_DEPTH` is `fifoDepth` (R95). -/
def Instr.wellFormed (fifoDepth : Nat) : Instr → Bool
  | .init => true
  | .solve => true
  | .setRate _ => true
  | .getRate => true
  | .streamStart => true
  | .streamStop => true
  | .bufReset => true
  | .submit _ => true
  | .drain n => decide (n.toNat ≤ fifoDepth)

end Sys2Proof
end

