-- ==== Sys2Proof/Decode.lean ====
section
/-! DEFINITION. The decoder (R91 to R98, R103 of spec/30_encoding.md), total on every 32-bit word and rejecting by name,
and after it the encoder (R101). A command is one 32-bit word, written whole to `CMD`, so there is no byte order of a
command and no length to find (R90, R100). -/

namespace Sys2Proof

/-- The operation codes of the map (R96). -/
inductive Op where
  | init | solve | setRate | getRate | streamStart | streamStop | bufReset | submit | drain
deriving DecidableEq, Repr

/-- The four formats of a command word (R92 to R95). -/
inductive Format where
  | Z | F | L | N
deriving DecidableEq, Repr

/-- Why a word is illegal, the three cases of R98. -/
inductive Illegal where
  /-- (a) `op` is `0x00` or in `0x0A .. 0xFF`. -/
  | unknownOp
  /-- (b) a reserved bit of the format is 1. -/
  | reservedBit
  /-- (c) a `DRAIN` with `n > FIFO_DEPTH`. -/
  | tooManySlots
deriving DecidableEq, Repr

/-- What a word spells: exactly one command, or it is illegal (R103). -/
inductive Decoded where
  | command (i : Instr)
  | illegal (why : Illegal)
deriving DecidableEq, Repr

/-- `op = c[7:0]` (R91). -/
def opField (c : Word) : BitVec 8 := c.extractLsb' 0 8

/-- `fmt = c[8]` (R93). -/
def fmtField (c : Word) : RateFormat := if c.getLsbD 8 then .bits32 else .bits24

/-- `len = c[23:8]` (R94). -/
def lenField (c : Word) : BitVec 16 := c.extractLsb' 8 16

/-- `n = c[11:8]` (R95). -/
def slotField (c : Word) : BitVec 4 := c.extractLsb' 8 4

/-- The operation that an operation code names, if the map has it (R96). -/
def opOf (op : BitVec 8) : Option Op :=
  match op.toNat with
  | 0x01 => some .init
  | 0x02 => some .solve
  | 0x03 => some .setRate
  | 0x04 => some .getRate
  | 0x05 => some .streamStart
  | 0x06 => some .streamStop
  | 0x07 => some .bufReset
  | 0x08 => some .submit
  | 0x09 => some .drain
  | _ => none

/-- The format of an operation (R96). -/
def formatOf : Op → Format
  | .init | .solve | .getRate | .streamStart | .streamStop | .bufReset => .Z
  | .setRate => .F
  | .submit => .L
  | .drain => .N

/-- The reserved bits of a format, which must be 0 (R91 to R95). -/
def reservedBits : Format → Word
  | .Z => 0xFFFFFF00#32
  | .F => 0xFFFFFE00#32
  | .L => 0xFF000000#32
  | .N => 0xFFFFF000#32

/-- The command of an operation with the immediate fields of its word (R97). -/
def assemble (o : Op) (c : Word) : Instr :=
  match o with
  | .init => .init
  | .solve => .solve
  | .setRate => .setRate (fmtField c)
  | .getRate => .getRate
  | .streamStart => .streamStart
  | .streamStop => .streamStop
  | .bufReset => .bufReset
  | .submit => .submit (lenField c)
  | .drain => .drain (slotField c)

/-- The decode procedure, its steps in the order of R103. -/
def decode (fifoDepth : Nat) (c : Word) : Decoded :=
  match opOf (opField c) with
  | none => .illegal .unknownOp
  | some o =>
    if c &&& reservedBits (formatOf o) ≠ 0#32 then .illegal .reservedBit
    else if o = .drain ∧ fifoDepth < (slotField c).toNat then .illegal .tooManySlots
    else .command (assemble o c)

/-- The bit `fmt` of a rate format (R93). -/
def fmtBit : RateFormat → Nat
  | .bits24 => 0
  | .bits32 => 1

/-- The word of a command, as R101 spells it. -/
def encode : Instr → Word
  | .init => 0x00000001#32
  | .solve => 0x00000002#32
  | .setRate fmt => BitVec.ofNat 32 (0x03 + fmtBit fmt * 2 ^ 8)
  | .getRate => 0x00000004#32
  | .streamStart => 0x00000005#32
  | .streamStop => 0x00000006#32
  | .bufReset => 0x00000007#32
  | .submit len => BitVec.ofNat 32 (0x08 + len.toNat * 2 ^ 8)
  | .drain n => BitVec.ofNat 32 (0x09 + n.toNat * 2 ^ 8)

/-- One row of the opcode map: a word `c` spells the row whose `c &&& mask = pattern` (R96). -/
structure Row where
  mnemonic : String
  pattern : Word
  mask : Word
deriving DecidableEq, Repr

/-- The row of spec/opcode_table.json that a command belongs to (R96). -/
def rowOf : Instr → Row
  | .init => ⟨"INIT", 0x00000001#32, 0xFFFFFFFF#32⟩
  | .solve => ⟨"SOLVE", 0x00000002#32, 0xFFFFFFFF#32⟩
  | .setRate _ => ⟨"SET_RATE", 0x00000003#32, 0xFFFFFEFF#32⟩
  | .getRate => ⟨"GET_RATE", 0x00000004#32, 0xFFFFFFFF#32⟩
  | .streamStart => ⟨"STREAM_START", 0x00000005#32, 0xFFFFFFFF#32⟩
  | .streamStop => ⟨"STREAM_STOP", 0x00000006#32, 0xFFFFFFFF#32⟩
  | .bufReset => ⟨"BUF_RESET", 0x00000007#32, 0xFFFFFFFF#32⟩
  | .submit _ => ⟨"SUBMIT", 0x00000008#32, 0xFF0000FF#32⟩
  | .drain _ => ⟨"DRAIN", 0x00000009#32, 0xFFFFF0FF#32⟩

/-- The command word whose bits are the low `nbits` bits of `w`, every bit above them 0. -/
def tableWord (nbits w : Nat) : Word := BitVec.ofNat 32 (w % 2 ^ nbits)

/-- The command the decoder reads from a word of the opcode table, with `FIFO_DEPTH` as the machine behind
`State.reset` has it (its default 8; log entry 10). -/
def decodeTableWord (nbits w : Nat) : Option Instr :=
  match decode Config.chip.fifoDepth (tableWord nbits w) with
  | .command i => some i
  | .illegal _ => none

end Sys2Proof
end

