-- ==== Sys2Proof/Machine/State.lean ====
section
/-! DEFINITION. The state of the block (R20 of spec/10_state.md) as plain data, the agents' side of its port
(R61, R80, R81 of spec/20_memory.md), the reasons a step can stop, and the state after reset (R58, R240). -/

namespace Sys2Proof.Machine

/-- `currentSpeedMode` (R33): 0 = NORMAL, 1 = SPED_UP. -/
inductive Mode where
  | normal
  | spedUp
deriving DecidableEq, Repr

/-- The values of `CSTAT.CODE`: 0, 1, 2 and 5 (R40). The others are never written (U20), so the type excludes them. -/
inductive Completion where
  | ok
  | noValidDivider
  | rateUnsupported
  | illegalCommand
deriving DecidableEq, Repr

/-- The six events (R210). -/
inductive Event where
  | noValidDivider
  | rateUnsupported
  | bufferOverrun
  | bufferUnderrun
  | illegalCommand
  | busError
deriving DecidableEq, Repr

/-- One entry of the profile table (R24). -/
structure Profile where
  valid : Bool
  prescale : BitVec 6
  fastX : Byte
  fastY : Byte
  slowX : Byte
  slowY : Byte
deriving DecidableEq, Repr

/-- An entry whose solve failed, and every entry at reset: all fields 0 (R24, R58). -/
def Profile.invalid : Profile := ⟨false, 0, 0, 0, 0, 0⟩

/-- The three issuers of requests (R80). -/
inductive Agent where
  | host
  | producer
  | drain
deriving DecidableEq, Repr

/-- The four port primitives (R62 to R65). Addresses are byte offsets from the base of the block (R60). -/
inductive Request where
  /-- `BusRead(a)` (R62). -/
  | read32 (a : Word)
  /-- `BusWrite(a, v)` (R63). -/
  | write32 (a v : Word)
  /-- `BusRead8(a)` (R64). -/
  | read8 (a : Word)
  /-- `BusWrite8(a, v)` (R65). -/
  | write8 (a : Word) (v : Byte)
deriving DecidableEq, Repr

/-- What reaches the block next: the port takes the next request of an agent (R81), or the reset input moves (R240). -/
inductive Input where
  | take (agent : Agent)
  | assertReset
  | releaseReset
deriving DecidableEq, Repr

/-- The port's answer to the request it took last (R62 to R66). -/
inductive Response where
  /-- No request has been taken since reset. -/
  | idle
  /-- A 32-bit read returned `v`. -/
  | word (v : Word)
  /-- An 8-bit read returned `v`. -/
  | byte (v : Byte)
  /-- A write was performed, or discarded without an error (a read-only register). -/
  | written
  /-- A read met a bus error: it returned 0, with an error response (R66). -/
  | readError
  /-- A write met a bus error: it was discarded, with an error response (R66). -/
  | writeError
deriving DecidableEq, Repr

/-- The bytes of `storage` that were written since the last reset, by offset, in one canonical form: offsets strictly
rising (`Memory.wf`). An unlisted offset holds no written byte; `State.stor` gives what it reads as. -/
abbrev Memory := List Host.Cell

/-- The block, and the agents' side of its port. -/
structure State where
  /-- The parameters (R10 to R16), never written by a step (DESIGN CHOICE to hold them here; safe; log entry 1). -/
  conf : Config
  /-- `ARG0` (R38). -/
  arg0 : Word
  /-- Bits 15:0 of `ARG1`; bits 31:16 are reserved and hold nothing (R38, U12). -/
  arg1 : Half
  /-- `RES0` (R39). -/
  res0 : Word
  /-- `RES1` (R39). -/
  res1 : Word
  /-- `CSTAT.CODE` (R40). -/
  cstat : Completion
  /-- The sticky flags `EVENT[5:0]` (R44). -/
  event : BitVec 6
  /-- `PROF[0..6]` (R24). -/
  prof : Vector Profile 7
  /-- `tableReady` (R25). -/
  tableReady : Bool
  /-- `rateIndex`, `0..6`; 7 never occurs (R27, U20). -/
  rateIndex : Fin 7
  /-- `cfg`: a profile has been loaded into the player (R27). -/
  cfg : Bool
  /-- `run`: streaming is active (R28). -/
  run : Bool
  /-- `capacity` in bytes (R29). -/
  capacity : Half
  /-- `writeIndex` (R30). -/
  writeIndex : Half
  /-- `readIndex` (R30). -/
  readIndex : Half
  /-- `count` of buffered bytes (R30). -/
  count : Half
  /-- `mode` (R33). -/
  mode : Mode
  /-- `lastSample` (R34). -/
  lastSample : Word
  /-- `actPrescale` of the active divider (R55). -/
  actPrescale : BitVec 6
  /-- `actX` of the active divider (R55). -/
  actX : Byte
  /-- `actY` of the active divider (R55). -/
  actY : Byte
  /-- `ampEn`, the amplifier request (R56). -/
  ampEn : Bool
  /-- The bytes of `storage` written since reset (R35). -/
  storage : Memory
  /-- `txLog`, oldest word first (R57). -/
  txLog : List Word
  /-- The model's own: which draw of the free bytes `storage` has held since the last reset (log entry 3). -/
  resetDraw : Nat
  /-- The model's own: the reset input is asserted (R240; log entry 7). -/
  inReset : Bool
  /-- The model's own: the host agent's requests still to be taken, in its program order (R81; log entry 4). -/
  hostQueue : List Request
  /-- The model's own: the producer agent's requests still to be taken (R81; log entry 4). -/
  producerQueue : List Request
  /-- The model's own: the drain agent's requests still to be taken (R81; log entry 4). -/
  drainQueue : List Request
  /-- The model's own: the order in which requests are taken and the reset input moves (R81; log entry 4). -/
  inputs : List Input
  /-- The model's own: the port's answer to the last request (R62 to R66; log entry 6). -/
  response : Response
deriving DecidableEq, Repr

/-- Why a step stops with a fault. No rule of the spec stops the machine, and in a state that keeps R31 neither reason
arises (log entry 8). -/
inductive Fault where
  /-- Raised by the sample fetch of `DRAIN` and the tail copy of `SUBMIT` when they would reach a byte outside
  `Stor[0 .. STORAGE_SIZE-1]`, which does not exist (R19, R70). Safe. -/
  | outsideStorage
  /-- Raised by the sample fetch of `DRAIN` when `readIndex` would be reduced modulo a capacity of 0, which the notation
  excludes (R17, R172). Safe. -/
  | moduloZero
deriving DecidableEq, Repr

/-- Why a step is refused. -/
inductive Refusal where
  /-- Raised by an arm of `exec` whose instruction has no meaning yet; every instruction has one, so nothing raises it.
  Safe. -/
  | notModelled (mnemonic : String)
deriving DecidableEq, Repr

/-- The state on release of reset (R58, R240), for a configuration and a draw of the free bytes of `storage`; the
agents have made no requests. -/
def State.resetOf (conf : Config) (draw : Nat) : State where
  conf := conf
  arg0 := 0
  arg1 := 0
  res0 := 0
  res1 := 0
  cstat := .ok
  event := 0
  prof := #v[.invalid, .invalid, .invalid, .invalid, .invalid, .invalid, .invalid]
  tableReady := false
  rateIndex := conf.params.defaultRateIndex
  cfg := false
  run := false
  capacity := 0
  writeIndex := 0
  readIndex := 0
  count := 0
  mode := .normal
  lastSample := 0
  actPrescale := 0
  actX := 0
  actY := 0
  ampEn := false
  storage := []
  txLog := []
  resetDraw := draw
  inReset := false
  hostQueue := []
  producerQueue := []
  drainQueue := []
  inputs := []
  response := .idle

/-- The machine right after reset (R58). The model's own fields start at values that log entries 3, 4, 6 and 7 name. -/
def State.reset : State := State.resetOf Config.chip 0

end Sys2Proof.Machine
end

