-- ==== Sys2Proof/Machine/Ops.lean ====
section
/-! DEFINITION. The named operations over events, storage, the transmit log and the buffer indices. Events are the
block's exceptions: raising one is `raise`, and what stands beside it in place of a return is `clearEvents` (R220,
R221 of spec/60_exceptions.md). -/

namespace Sys2Proof.Machine

/-! ### Events -/

/-- The code of an event, 1 to 6 (R210). -/
def eventCode : Event → Nat
  | .noValidDivider => 1
  | .rateUnsupported => 2
  | .bufferOverrun => 3
  | .bufferUnderrun => 4
  | .illegalCommand => 5
  | .busError => 6

/-- The flag of an event in `EVENT`: "the bit of event code `k` is bit `k - 1`" (R44). -/
def eventBit (e : Event) : BitVec 6 := BitVec.ofNat 6 (2 ^ (eventCode e - 1))

/-- `raise <Event>`: set the sticky flag and do nothing else; it saves nothing, masks nothing and transfers control
nowhere (R19, R220). -/
def raise (e : Event) (s : State) : State := { s with event := s.event ||| eventBit e }

/-- `EVENT <- EVENT and not v[5:0]`, the only way a flag is cleared (R44, R221). -/
def clearEvents (v : Word) (s : State) : State := { s with event := s.event &&& ~~~(v.setWidth 6) }

/-- The flag of an event is set (R44). -/
def flagged (s : State) (e : Event) : Bool := s.event &&& eventBit e == eventBit e

/-- `CSTAT.CODE <- c` (R40). -/
def complete (c : Completion) (s : State) : State := { s with cstat := c }

/-! ### Storage -/

/-- The byte written last at offset `k`, if any was written since reset. -/
def Memory.lookup (k : Nat) : Memory → Option Byte
  | [] => none
  | c :: m => if c.1 = k then some c.2 else Memory.lookup k m

/-- Write `b` at offset `k`, keeping offsets strictly rising. -/
def Memory.put (k : Nat) (b : Byte) : Memory → Memory
  | [] => [(k, b)]
  | c :: m =>
    if k < c.1 then (k, b) :: c :: m
    else if k = c.1 then (k, b) :: m
    else c :: Memory.put k b m

/-- The canonical form: offsets strictly rising. An unlisted offset reads as "no byte written" and an entry always
holds a byte, so no entry equals what an unlisted offset reads as (log entry 3). -/
def Memory.wf : Memory → Bool
  | [] => true
  | [_] => true
  | c :: d :: m => decide (c.1 < d.1) && Memory.wf (d :: m)

/-- What offset `k` of a memory holds: the byte written last, else the free byte of that offset (R35, U2, U3). -/
def Memory.byteAt (draw : Nat) (m : Memory) (k : Nat) : Byte := (Memory.lookup k m).getD (Config.resetByte draw k)

/-- `Stor[k]` (R19, R35). -/
def stor (s : State) (k : Nat) : Byte := Memory.byteAt s.resetDraw s.storage k

/-- `Stor[k] <- b` (R19). -/
def storWrite (k : Nat) (b : Byte) (s : State) : State := { s with storage := Memory.put k b s.storage }

/-- `MemRead(k, n)`: the `n`-byte little-endian value at the linear offsets `k ..` (R19, R67). -/
def memRead (s : State) (k : Nat) : Nat → Nat
  | 0 => 0
  | n + 1 => (stor s k).toNat + 2 ^ 8 * memRead s (k + 1) n

/-- `n` bytes from offset `k` on are bytes of `storage` (R19). -/
def inStorage (c : Config) (k n : Nat) : Bool := decide (k + n ≤ c.storageSize)

/-- The tail copy `Stor[k] <- Stor[capacity + k]` for `t` offsets from `k` on, ascending (R152, R154). -/
def copyTail (draw capacity k : Nat) : Nat → Memory → Memory
  | 0, m => m
  | t + 1, m => copyTail draw capacity (k + 1) t (Memory.put k (Memory.byteAt draw m (capacity + k)) m)

/-! ### The transmit log and the buffer -/

/-- `Push(v)` (R19, R57). -/
def push (v : Word) (s : State) : State := { s with txLog := s.txLog ++ [v] }

/-- `BufReset()` (R32). -/
def bufReset (s : State) : State := { s with count := 0, writeIndex := 0, readIndex := 0 }

/-- The outputs `irqEn` and `clkRun` are both `run` (R56). -/
def irqEn (s : State) : Bool := s.run

/-- See `irqEn` (R56). -/
def clkRun (s : State) : Bool := s.run

/-! ### Reset -/

/-- The state on release of the reset input: R58's table, the same configuration, a fresh draw of the bytes of
`storage`; what the agents have still to ask is theirs and stays (R240; log entry 7). -/
def resetBlock (s : State) : State :=
  { State.resetOf s.conf (s.resetDraw + 1) with
    hostQueue := s.hostQueue, producerQueue := s.producerQueue, drainQueue := s.drainQueue, inputs := s.inputs }

end Sys2Proof.Machine
end

