-- ==== Sys2Proof/Machine/Flags.lean ====
section
/-! DEFINITION. The conditions the commands test and the flag words software reads: the overrun and wrap tests of
`SUBMIT`, the underrun test and the two watermarks of `DRAIN`, and the encodings of `CSTAT`, `EVENT` and `STATUS`. The
block has no condition codes (R23 of spec/10_state.md). -/

namespace Sys2Proof.Machine

/-- The overrun test on the advanced count, strict (R152 step 3, R153). -/
def overruns (s : State) (c : Nat) : Bool := decide (s.capacity.toNat < c)

/-- The wrap test on the advanced write index, non-strict (R152 step 4, R154). -/
def wraps (s : State) (w : Nat) : Bool := decide (s.capacity.toNat ≤ w)

/-- There is a whole sample to consume (R172); otherwise the slot underruns (R173). -/
def hasSample (s : State) : Bool := decide (Config.sampleBytes ≤ s.count.toNat)

/-- `count` is at or above 5/8 of `capacity`, compared without rounding (R174). -/
def atHighWatermark (s : State) : Bool := decide (5 * s.capacity.toNat ≤ 8 * s.count.toNat)

/-- `count` is below 3/8 of `capacity`, compared without rounding (R174). -/
def belowLowWatermark (s : State) : Bool := decide (8 * s.count.toNat < 3 * s.capacity.toNat)

/-- `CSTAT.CODE` as software reads it (R40). -/
def completionCode : Completion → Nat
  | .ok => 0
  | .noValidDivider => 1
  | .rateUnsupported => 2
  | .illegalCommand => 5

/-- One bit as a number (R18). -/
def bit (b : Bool) : Nat := if b then 1 else 0

/-- The `MODE` bit: 0 = NORMAL, 1 = SPED_UP (R33). -/
def modeBit : Mode → Nat
  | .normal => 0
  | .spedUp => 1

/-- `STATUS[14:8]`: bit `i` is `PROF[i].valid` (R43). -/
def validBits (s : State) : Nat :=
  bit (s.prof.get 0).valid + bit (s.prof.get 1).valid * 2 + bit (s.prof.get 2).valid * 2 ^ 2 +
    bit (s.prof.get 3).valid * 2 ^ 3 + bit (s.prof.get 4).valid * 2 ^ 4 + bit (s.prof.get 5).valid * 2 ^ 5 +
    bit (s.prof.get 6).valid * 2 ^ 6

/-- `STATUS` (R43). -/
def statusWord (s : State) : Word :=
  BitVec.ofNat 32 (bit s.run + modeBit s.mode * 2 + bit s.cfg * 2 ^ 2 + bit s.tableReady * 2 ^ 3 +
    s.rateIndex.val * 2 ^ 4 + validBits s * 2 ^ 8 + bit s.ampEn * 2 ^ 15)

end Sys2Proof.Machine
end

