-- ==== Sys2Proof/Machine/Operands.lean ====
section
/-! DEFINITION. The operands of the commands: immediate fields and register operands, each an unsigned natural
(R97 of spec/30_encoding.md). -/

namespace Sys2Proof.Machine

/-- `sampleRate = ARG0[31:0]` of `SOLVE` (R97). -/
def sampleRateOperand (s : State) : Nat := s.arg0.toNat

/-- `channelCount = ARG1[7:0]` of `SOLVE` (R97). -/
def channelCountOperand (s : State) : Nat := (s.arg1.extractLsb' 0 8).toNat

/-- `bitsPerSample = ARG1[15:8]` of `SOLVE` (R97). -/
def bitsPerSampleOperand (s : State) : Nat := (s.arg1.extractLsb' 8 8).toNat

/-- The rate value of `SET_RATE`: `ARG0[31:0]`, or `ARG0[23:0]` with bits 31:24 ignored when `fmt = 0` (R97, R191). -/
def rateOperand (fmt : RateFormat) (s : State) : Nat :=
  match fmt with
  | .bits24 => (s.arg0.extractLsb' 0 24).toNat
  | .bits32 => s.arg0.toNat

/-- The packet length `L` of `SUBMIT` (R97). -/
def packetLength (len : BitVec 16) : Nat := len.toNat

/-- The slot count `n` of `DRAIN` (R97). -/
def slotCount (n : BitVec 4) : Nat := n.toNat

end Sys2Proof.Machine
end

