-- ==== Sys2Proof/Machine/BufferWrite.lean ====
section
/-! DEFINITION. The write path: `SUBMIT` and `BUF_RESET` (spec/41_buffer_write.md). -/

namespace Sys2Proof.Machine

/-- The overrun recovery of `SUBMIT`: the whole buffer is reset and nothing else changes (R152 step 3, R153). -/
def overrun (s : State) : State := bufReset (raise .bufferOverrun s)

/-- The accepted packet that ends below `capacity`: `c` and `w` are the advanced count and write index (R152). -/
def acceptLinear (c w : Nat) (s : State) : State :=
  { s with count := BitVec.ofNat 16 c, writeIndex := BitVec.ofNat 16 w }

/-- The accepted packet that reaches `capacity`: the tail that ran into the slack is copied to the start (R152 steps 4
to 6, R154). -/
def acceptWrapped (c w : Nat) (s : State) : State :=
  { s with
    count := BitVec.ofNat 16 c
    storage := copyTail s.resetDraw s.capacity.toNat 0 (w - s.capacity.toNat) s.storage
    writeIndex := BitVec.ofNat 16 (w - s.capacity.toNat) }

/-- `SUBMIT L` on naturals: `w` and `c` do not wrap (R152). -/
def submitPacket (l : Nat) (s : State) : Host.Outcome State Fault Refusal :=
  if overruns s (s.count.toNat + l) then .next (overrun s)
  else if wraps s (s.writeIndex.toNat + l) then
    if inStorage s.conf s.capacity.toNat (s.writeIndex.toNat + l - s.capacity.toNat) then
      .next (acceptWrapped (s.count.toNat + l) (s.writeIndex.toNat + l) s)
    else .fault .outsideStorage
  else .next (acceptLinear (s.count.toNat + l) (s.writeIndex.toNat + l) s)

/-- `SUBMIT` (R152). -/
def execSubmit (len : BitVec 16) (s : State) : Host.Outcome State Fault Refusal := submitPacket (packetLength len) s

/-- `BUF_RESET` (R157). -/
def execBufReset (s : State) : Host.Outcome State Fault Refusal := .next (bufReset s)

end Sys2Proof.Machine
end

