-- ==== Sys2Proof/Machine/DrainPlayer.lean ====
section
/-! DEFINITION. The drain path and the rate-adaptive player: `DRAIN` (spec/42_drain_player.md). -/

namespace Sys2Proof.Machine

/-- The sample word at `readIndex`: four bytes at linear offsets, little-endian (R67, R172). -/
def sampleAt (s : State) : Word := BitVec.ofNat 32 (memRead s s.readIndex.toNat Config.sampleBytes)

/-- The consume branch of the slot step (R172). -/
def consumeSample (s : State) : State :=
  push (sampleAt s)
    { s with
      lastSample := sampleAt s
      count := BitVec.ofNat 16 (s.count.toNat - Config.sampleBytes)
      readIndex := BitVec.ofNat 16 ((s.readIndex.toNat + Config.sampleBytes) % s.capacity.toNat) }

/-- The underrun branch of the slot step (R173). -/
def repeatSample (s : State) : State := push s.lastSample (raise .bufferUnderrun s)

/-- One slot step (R171 to R173). Its two faults arise in no state that keeps R31 (R70; log entry 8). -/
def slotStep (s : State) : Host.Outcome State Fault Refusal :=
  if hasSample s then
    if s.capacity = 0 then .fault .moduloZero
    else if inStorage s.conf s.readIndex.toNat Config.sampleBytes then .next (consumeSample s)
    else .fault .outsideStorage
  else .next (repeatSample s)

/-- `n` slot steps (R171). -/
def drainSlots : Nat → State → Host.Outcome State Fault Refusal
  | 0, s => .next s
  | n + 1, s =>
    match slotStep s with
    | .next t => drainSlots n t
    | .fault r => .fault r
    | .refused r => .refused r

/-- The first test of the hysteresis step: NORMAL to SPED_UP, with the fast pair (R174). -/
def speedUp (s : State) : State :=
  if atHighWatermark s = true ∧ s.mode = .normal then
    { s with actX := (s.prof.get s.rateIndex).fastX, actY := (s.prof.get s.rateIndex).fastY, mode := .spedUp }
  else s

/-- The second test of the hysteresis step: SPED_UP to NORMAL, with the slow pair (R174). -/
def slowDown (s : State) : State :=
  if belowLowWatermark s = true ∧ s.mode = .spedUp then
    { s with actX := (s.prof.get s.rateIndex).slowX, actY := (s.prof.get s.rateIndex).slowY, mode := .normal }
  else s

/-- The hysteresis step; the second test sees what the first wrote (R174). -/
def hysteresis (s : State) : State := slowDown (speedUp s)

/-- `DRAIN n` while streaming: the slots, then the hysteresis step once (R171, R174). -/
def drainPlaying (n : Nat) (s : State) : Host.Outcome State Fault Refusal :=
  match drainSlots n s with
  | .next t => .next (hysteresis t)
  | .fault r => .fault r
  | .refused r => .refused r

/-- `DRAIN`; masked while `run = 0` (R171, R176). -/
def execDrain (n : BitVec 4) (s : State) : Host.Outcome State Fault Refusal :=
  if s.run then drainPlaying (slotCount n) s else .next s

end Sys2Proof.Machine
end

