-- ==== Sys2Proof/Machine/Solver.lean ====
section
/-! DEFINITION. The clock-rate solver and the commands `SOLVE` and `INIT` (spec/40_solver.md). Arithmetic is on
unbounded naturals and division truncates (R134). -/

namespace Sys2Proof.Machine

/-- `clamp(v, lo, hi)` (R17). -/
def clamp (v lo hi : Nat) : Nat := max lo (min hi v)

/-- A successful solve: `(prescale, fastX, fastY, slowX, slowY)` (R120). -/
structure Solution where
  prescale : Nat
  fastX : Nat
  fastY : Nat
  slowX : Nat
  slowY : Nat
deriving DecidableEq, Repr

/-- A denominator with its rounding error, the best of its class so far, if any (R124). -/
structure Candidate where
  y : Nat
  err : Nat
deriving DecidableEq, Repr

/-- The two trackers of the denominator scan (R124). -/
structure Trackers where
  bestUp : Option Candidate
  bestDown : Option Candidate
deriving DecidableEq, Repr

/-- `d(n) = (A * 2^16 * n) / REF` (R121). -/
def scaledRatio (ref a n : Nat) : Nat := a * 2 ^ 16 * n / ref

/-- The largest `n` in `1 .. fuel` with `d(n) < 2^16`, scanning downwards (R121). -/
def findPrescale (ref a : Nat) : Nat → Option Nat
  | 0 => none
  | n + 1 => if scaledRatio ref a (n + 1) < 2 ^ 16 then some (n + 1) else findPrescale ref a n

/-- A candidate replaces the best of its class only when its error is strictly smaller (R124). -/
def better (best : Option Candidate) (y err : Nat) : Option Candidate :=
  match best with
  | none => some ⟨y, err⟩
  | some b => if err < b.err then some ⟨y, err⟩ else some b

/-- One denominator of the scan: rejection, classification, tracking (R123, R124). -/
def track (divider y : Nat) (t : Trackers) : Trackers :=
  if 255 < y * divider / 2 ^ 16 then t
  else if 0x8000 < y * divider % 2 ^ 16 then
    { t with bestUp := better t.bestUp y (0x10000 - y * divider % 2 ^ 16) }
  else { t with bestDown := better t.bestDown y (y * divider % 2 ^ 16) }

/-- The scan over the denominators `y, y - 1, ..., 1` (R123). -/
def scanDenominators (divider : Nat) : Nat → Trackers → Trackers
  | 0, t => t
  | y + 1, t => scanDenominators divider y (track divider (y + 1) t)

/-- `xdir(y) = (y * A * N) / REF`, the direct numerator (R125). -/
def directNumerator (ref a n y : Nat) : Nat := y * a * n / ref

/-- The denominator of a class, 255 when the class has no member (R128). -/
def denominatorOf (best : Option Candidate) : Nat :=
  match best with
  | none => Config.yMax
  | some b => b.y

/-- The profile for a prescale choice `N` (R122 to R129). -/
def solveWith (ref a n : Nat) : Solution :=
  let t := scanDenominators (scaledRatio ref a n) Config.yMax ⟨none, none⟩
  let fastY := denominatorOf t.bestUp
  let slowY := denominatorOf t.bestDown
  { prescale := n - 1
    fastX := clamp (directNumerator ref a n fastY + 1) 1 255
    fastY := fastY
    slowX := clamp (directNumerator ref a n slowY) 1 255
    slowY := slowY }

/-- `Solve(sampleRate, channelCount, bitsPerSample)`, `none` being `Fail` (R120, R130, R131). -/
def solve (ref sampleRate channelCount bitsPerSample : Nat) : Option Solution :=
  (findPrescale ref (sampleRate * channelCount * bitsPerSample) Config.nMax).map
    (solveWith ref (sampleRate * channelCount * bitsPerSample))

/-- A result of `Solve` as a table entry; `Fail` gives the invalid entry (R24, R141). -/
def profileOf : Option Solution → Profile
  | none => .invalid
  | some p =>
    { valid := true
      prescale := BitVec.ofNat 6 p.prescale
      fastX := BitVec.ofNat 8 p.fastX
      fastY := BitVec.ofNat 8 p.fastY
      slowX := BitVec.ofNat 8 p.slowX
      slowY := BitVec.ofNat 8 p.slowY }

/-- `PackA` (R135); 0 for an invalid entry (log entry 14). -/
def packA (p : Profile) : Word :=
  if p.valid then BitVec.ofNat 32 (2 ^ 31 + p.prescale.toNat * 2 ^ 16 + p.fastX.toNat * 2 ^ 8 + p.fastY.toNat) else 0

/-- `PackB` (R135); 0 for an invalid entry (log entry 14). -/
def packB (p : Profile) : Word :=
  if p.valid then BitVec.ofNat 32 (p.slowX.toNat * 2 ^ 8 + p.slowY.toNat) else 0

/-- The entry that `INIT` builds for rate `i` (R141). -/
def tableEntry (ref : Nat) (i : Fin 7) : Profile :=
  profileOf (solve ref (Config.rate i) Config.channels Config.bitsPerSample)

/-- The table that `INIT` builds (R141). -/
def buildTable (ref : Nat) : Vector Profile 7 :=
  #v[tableEntry ref 0, tableEntry ref 1, tableEntry ref 2, tableEntry ref 3, tableEntry ref 4, tableEntry ref 5,
    tableEntry ref 6]

/-- Every rate of a table is usable. -/
def allValid (t : Vector Profile 7) : Bool :=
  (t.get 0).valid && (t.get 1).valid && (t.get 2).valid && (t.get 3).valid && (t.get 4).valid && (t.get 5).valid &&
    (t.get 6).valid

/-- What `SOLVE` leaves for a result of the solver (R140). -/
def reportSolution (r : Option Solution) (s : State) : State :=
  let t := { s with res0 := packA (profileOf r), res1 := packB (profileOf r) }
  match r with
  | none => complete .noValidDivider (raise .noValidDivider t)
  | some _ => complete .ok t

/-- `SOLVE` (R140). -/
def execSolve (s : State) : Host.Outcome State Fault Refusal :=
  .next (reportSolution
    (solve s.conf.refClkHz (sampleRateOperand s) (channelCountOperand s) (bitsPerSampleOperand s)) s)

/-- The accepted `INIT`: all seven entries in one command (R25, R141). -/
def installTable (t : Vector Profile 7) (s : State) : State :=
  let u := { s with prof := t, tableReady := true }
  if allValid t then complete .ok u else complete .noValidDivider (raise .noValidDivider u)

/-- `INIT` (R141). -/
def execInit (s : State) : Host.Outcome State Fault Refusal :=
  .next (if s.tableReady then complete .illegalCommand (raise .illegalCommand s)
    else installTable (buildTable s.conf.refClkHz) s)

end Sys2Proof.Machine
end

