-- ==== Sys2Proof/Machine/StreamControl.lean ====
section
/-! DEFINITION. Rate and stream control: `SET_RATE`, `GET_RATE`, `STREAM_START`, `STREAM_STOP`
(spec/43_stream_control.md). -/

namespace Sys2Proof.Machine

/-- The index with `RATE[i] = v`, if there is one (R191). -/
def rateIndexOf (v : Nat) : Option (Fin 7) :=
  if v = Config.rate 0 then some 0
  else if v = Config.rate 1 then some 1
  else if v = Config.rate 2 then some 2
  else if v = Config.rate 3 then some 3
  else if v = Config.rate 4 then some 4
  else if v = Config.rate 5 then some 5
  else if v = Config.rate 6 then some 6
  else none

/-- The rate index that a `SET_RATE` of value `v` is accepted for: the three tests of R191, in its order. -/
def acceptedRate (v : Nat) (s : State) : Option (Fin 7) :=
  if Config.maxRate < v then none
  else
    match rateIndexOf v with
    | none => none
    | some i => if (s.prof.get i).valid then some i else none

/-- `Reinit(i)`. `irqEn` and `clkRun` are low for its duration and return to `run`, which no request can observe
(R56, R190; log entry 12). -/
def reinit (i : Fin 7) (s : State) : State :=
  { bufReset s with
    rateIndex := i
    capacity := BitVec.ofNat 16 (s.conf.cap i)
    mode := .normal
    actPrescale := (s.prof.get i).prescale
    actX := (s.prof.get i).slowX
    actY := (s.prof.get i).slowY
    cfg := true }

/-- The rejection of a rate: nothing but `EVENT.RUS` and `CSTAT` (R191). -/
def rejectRate (s : State) : State := complete .rateUnsupported (raise .rateUnsupported s)

/-- `SET_RATE` (R191). -/
def execSetRate (fmt : RateFormat) (s : State) : Host.Outcome State Fault Refusal :=
  .next (match acceptedRate (rateOperand fmt s) s with
    | some i => complete .ok (reinit i s)
    | none => rejectRate s)

/-- `GET_RATE` (R192). -/
def execGetRate (s : State) : Host.Outcome State Fault Refusal :=
  .next (complete .ok { s with res0 := BitVec.ofNat 32 (Config.rate s.rateIndex) })

/-- `STREAM_START` (R193). -/
def execStreamStart (s : State) : Host.Outcome State Fault Refusal :=
  .next (if s.cfg then { bufReset s with run := true, ampEn := true } else raise .illegalCommand s)

/-- `STREAM_STOP` (R194). -/
def execStreamStop (s : State) : Host.Outcome State Fault Refusal :=
  .next { bufReset s with run := false, ampEn := false }

end Sys2Proof.Machine
end

