-- ==== Sys2Proof/Machine/Dispatch.lean ====
section
/-! DEFINITION. What each command does: one arm per constructor of `Instr` (R96 of spec/30_encoding.md). -/

namespace Sys2Proof.Machine

def exec (i : Instr) (s : State) : Host.Outcome State Fault Refusal :=
  match i with
  | .init => Sys2Proof.Machine.execInit s
  | .solve => Sys2Proof.Machine.execSolve s
  | .setRate fmt => Sys2Proof.Machine.execSetRate fmt s
  | .getRate => Sys2Proof.Machine.execGetRate s
  | .streamStart => Sys2Proof.Machine.execStreamStart s
  | .streamStop => Sys2Proof.Machine.execStreamStop s
  | .bufReset => Sys2Proof.Machine.execBufReset s
  | .submit len => Sys2Proof.Machine.execSubmit len s
  | .drain n => Sys2Proof.Machine.execDrain n s

end Sys2Proof.Machine
end

