-- ==== Sys2Proof/Machine/Registers.lean ====
section
/-! DEFINITION. The register map and what each register reads as (R36 to R49 of spec/10_state.md). -/

namespace Sys2Proof.Machine

/-- The registers of the map (R36). -/
inductive Reg where
  | cmd | arg0 | arg1 | res0 | res1 | cstat | event | status | capacity | wridx | rdidx | count | nextWr | lastSample
  | activeDiv | refClk
  | profA (i : Fin 7)
  | profB (i : Fin 7)
deriving DecidableEq, Repr

/-- The register whose offset is `4 * word` (R36). -/
def regOfWord (word : Nat) : Option Reg :=
  match word with
  | 0 => some .cmd
  | 1 => some .arg0
  | 2 => some .arg1
  | 3 => some .res0
  | 4 => some .res1
  | 5 => some .cstat
  | 6 => some .event
  | 7 => some .status
  | 8 => some .capacity
  | 9 => some .wridx
  | 10 => some .rdidx
  | 11 => some .count
  | 12 => some .nextWr
  | 13 => some .lastSample
  | 14 => some .activeDiv
  | 15 => some .refClk
  | 16 => some (.profA 0)
  | 17 => some (.profB 0)
  | 18 => some (.profA 1)
  | 19 => some (.profB 1)
  | 20 => some (.profA 2)
  | 21 => some (.profB 2)
  | 22 => some (.profA 3)
  | 23 => some (.profB 3)
  | 24 => some (.profA 4)
  | 25 => some (.profB 4)
  | 26 => some (.profA 5)
  | 27 => some (.profB 5)
  | 28 => some (.profA 6)
  | 29 => some (.profB 6)
  | _ => none

/-- The register at an offset: aligned and at most 0x74, else none (R36, R49, R62, R68). -/
def regAt (a : Word) : Option Reg := if a.toNat % 4 = 0 then regOfWord (a.toNat / 4) else none

/-- `ACTIVE_DIV` (R42). -/
def activeDivWord (s : State) : Word :=
  BitVec.ofNat 32 (s.actPrescale.toNat * 2 ^ 16 + s.actX.toNat * 2 ^ 8 + s.actY.toNat)

/-- What a register reads as; no read has a side effect (R37 to R48, R62). -/
def regRead (s : State) : Reg → Word
  | .cmd => 0
  | .arg0 => s.arg0
  | .arg1 => s.arg1.setWidth 32
  | .res0 => s.res0
  | .res1 => s.res1
  | .cstat => BitVec.ofNat 32 (completionCode s.cstat)
  | .event => s.event.setWidth 32
  | .status => statusWord s
  | .capacity => s.capacity.setWidth 32
  | .wridx => s.writeIndex.setWidth 32
  | .rdidx => s.readIndex.setWidth 32
  | .count => s.count.setWidth 32
  | .nextWr => BitVec.ofNat 32 (s.conf.storageBase + s.writeIndex.toNat)
  | .lastSample => s.lastSample
  | .activeDiv => activeDivWord s
  | .refClk => BitVec.ofNat 32 s.conf.refClkHz
  | .profA i => packA (s.prof.get i)
  | .profB i => packB (s.prof.get i)

end Sys2Proof.Machine
end

