-- ==== Sys2Proof/Machine/Port.lean ====
section
/-! DEFINITION. The slave port: the four primitives, the bus error, and the issue of a command by a write of `CMD`
(R37 of spec/10_state.md; R61 to R66 of spec/20_memory.md). -/

namespace Sys2Proof.Machine

/-- The port's answer. -/
def respond (r : Response) (s : State) : State := { s with response := r }

/-- A request that is not legal: `raise BusError`, an error response, nothing else (R66). -/
def busError (r : Response) (s : State) : State := respond r (raise .busError s)

/-- A word written to `CMD`: an illegal word raises `IllegalCommand` and does nothing else (R98, R103). -/
def issueCommand (c : Word) (s : State) : Host.Outcome State Fault Refusal :=
  match decode s.conf.fifoDepth c with
  | .command i => exec i s
  | .illegal _ => .next (raise .illegalCommand s)

/-- The offset of `storage` that a block address names, if it lies in the window (R60, R64). -/
def storageOffset (s : State) (a : Word) : Option Nat :=
  if s.conf.storageBase ≤ a.toNat ∧ a.toNat < s.conf.storageBase + s.conf.storageSize then
    some (a.toNat - s.conf.storageBase)
  else none

/-- `BusRead(a)` (R62, R66). -/
def busRead (a : Word) (s : State) : State :=
  match regAt a with
  | some r => respond (.word (regRead s r)) s
  | none => busError .readError s

/-- A 32-bit write of a register that holds no command; read-only registers discard it without a flag (R36, R63). -/
def regWrite (r : Reg) (v : Word) (s : State) : State :=
  match r with
  | .arg0 => { s with arg0 := v }
  | .arg1 => { s with arg1 := v.setWidth 16 }
  | .event => clearEvents v s
  | .cmd | .res0 | .res1 | .cstat | .status | .capacity | .wridx | .rdidx | .count | .nextWr | .lastSample => s
  | .activeDiv | .refClk | .profA _ | .profB _ => s

/-- `BusWrite(a, v)` (R63, R66). -/
def busWrite (a v : Word) (s : State) : Host.Outcome State Fault Refusal :=
  match regAt a with
  | some .cmd => issueCommand v (respond .written s)
  | some r => .next (regWrite r v (respond .written s))
  | none => .next (busError .writeError s)

/-- `BusRead8(a)` (R64, R66). -/
def busRead8 (a : Word) (s : State) : State :=
  match storageOffset s a with
  | some k => respond (.byte (stor s k)) s
  | none => busError .readError s

/-- `BusWrite8(a, v)`: it changes a byte of `storage` and no other state (R65, R66). -/
def busWrite8 (a : Word) (v : Byte) (s : State) : State :=
  match storageOffset s a with
  | some k => storWrite k v (respond .written s)
  | none => busError .writeError s

/-- A request, performed completely (R61). -/
def perform (r : Request) (s : State) : Host.Outcome State Fault Refusal :=
  match r with
  | .read32 a => .next (busRead a s)
  | .write32 a v => busWrite a v s
  | .read8 a => .next (busRead8 a s)
  | .write8 a v => .next (busWrite8 a v s)

/-- The data a read returned, 0 on a bus error (R62, R64, R66). -/
def readData : Response → Option Word
  | .word v => some v
  | .byte v => some (v.setWidth 32)
  | .readError => some 0
  | .idle => none
  | .written => none
  | .writeError => none

/-- The port signalled an error response (R66). -/
def isErrorResponse : Response → Bool
  | .readError => true
  | .writeError => true
  | .idle => false
  | .word _ => false
  | .byte _ => false
  | .written => false

/-- The requests an agent has still to make (R80, R81). -/
def queueOf (a : Agent) (s : State) : List Request :=
  match a with
  | .host => s.hostQueue
  | .producer => s.producerQueue
  | .drain => s.drainQueue

/-- The same state with another list of requests for an agent. -/
def setQueue (a : Agent) (q : List Request) (s : State) : State :=
  match a with
  | .host => { s with hostQueue := q }
  | .producer => { s with producerQueue := q }
  | .drain => { s with drainQueue := q }

/-- The same state with other inputs still to come. -/
def setInputs (is : List Input) (s : State) : State := { s with inputs := is }

/-- The port takes the next request of an agent, in the agent's program order, and performs it; an agent with none left
makes none (R81; log entry 5). -/
def takeRequest (a : Agent) (s : State) : Host.Outcome State Fault Refusal :=
  match queueOf a s with
  | [] => .next s
  | r :: q => perform r (setQueue a q s)

/-- The reset input is asserted (R240). -/
def holdReset (s : State) : State := { s with inReset := true }

/-- What reaches the block next. "While it is asserted no request is taken" and the request stays with its agent; the
release of an asserted reset gives the reset state (R240; log entry 7). -/
def acceptInput (i : Input) (s : State) : Host.Outcome State Fault Refusal :=
  match i with
  | .take a => if s.inReset then .next s else takeRequest a s
  | .assertReset => .next (holdReset s)
  | .releaseReset => .next (if s.inReset then resetBlock s else s)

/-- One step: the next input, if any. With none the block does nothing (R61, R224; log entry 5). -/
def stepBlock (s : State) : Host.Outcome State Fault Refusal :=
  match s.inputs with
  | [] => .next s
  | i :: is => acceptInput i (setInputs is s)

/-- The state whose next step takes, from the host agent, the write of one command word to `CMD` (R90). -/
def placeCommand (c : Word) (s : State) : State :=
  { s with
    inReset := false
    hostQueue := .write32 0x00#32 c :: s.hostQueue
    inputs := .take .host :: s.inputs }

end Sys2Proof.Machine
end

