-- ==== Sys2Proof/Machine/Step.lean ====
section
/-! DEFINITION. One step of the machine, and the state in which a given command word runs next. -/

namespace Sys2Proof.Machine

/-- One step: the next request at the port, or the next move of the reset input (R61, R81, R240). -/
def step (s : State) : Host.Outcome State Fault Refusal := stepBlock s

/-- `s` with a command word as the host agent's next request and that request next at the port. The block fetches
nothing (R22): a program is the agents' requests, which reach it from outside (log entry 4). -/
def State.withFetchWord (s : State) (nbits w : Nat) : State := placeCommand (tableWord nbits w) s

end Sys2Proof.Machine
end

