-- ==== Sys2Proof/Safety.lean ====
section
/-! DEFINITION. What counts as a good state and a safe run, in the terms the statements use: the invariants the spec
asks a model to prove (R24 to R31 of spec/10_state.md, R175 of spec/42_drain_player.md), the bytes in the buffer, and
the roles of the agents (R80, R223). -/

namespace Sys2Proof.Machine

/-- The step went on. -/
abbrev Completes (o : Host.Outcome State Fault Refusal) : Prop := ∃ t, o = .next t

/-- A list of commands, one after the other. -/
def runCommands : List Instr → State → Host.Outcome State Fault Refusal
  | [], s => .next s
  | i :: is, s =>
    match exec i s with
    | .next t => runCommands is t
    | .fault r => .fault r
    | .refused r => .refused r

/-! ### The invariants -/

/-- R31: (a) the count is within the capacity, (b) both indices lie inside the active region, (c) the count is the
distance between them modulo the capacity. -/
abbrev BufferInv (s : State) : Prop :=
  s.count.toNat ≤ s.capacity.toNat ∧
  (0 < s.capacity.toNat → s.writeIndex.toNat < s.capacity.toNat ∧ s.readIndex.toNat < s.capacity.toNat ∧
    (s.readIndex.toNat + s.count.toNat) % s.capacity.toNat = s.writeIndex.toNat) ∧
  (s.capacity.toNat = 0 → s.writeIndex = 0 ∧ s.readIndex = 0)

/-- The buffer fits twice into `storage` (R29). -/
abbrev FitsTwice (s : State) : Prop := 2 * s.capacity.toNat ≤ s.conf.storageSize

/-- The canonical form of the written bytes, all of them bytes of `storage` (R35). -/
abbrev StorageInv (s : State) : Prop :=
  Memory.wf s.storage = true ∧ ∀ c ∈ s.storage, c.1 < s.conf.storageSize

/-- The table is empty before `INIT` and immutable after it (R24, R25). -/
abbrev TableInv (s : State) : Prop :=
  s.prof = if s.tableReady then buildTable s.conf.refClkHz else (State.resetOf s.conf 0).prof

/-- Before the first accepted `SET_RATE` (R27). -/
abbrev PlayerUnconfigured (s : State) : Prop :=
  s.run = false ∧ s.capacity = 0 ∧ s.mode = .normal ∧ s.rateIndex = s.conf.params.defaultRateIndex ∧
  s.actPrescale = 0 ∧ s.actX = 0 ∧ s.actY = 0

/-- After it: a valid profile is loaded, `capacity` is its rate's (R29), and the active divider agrees with `mode`
(R175). -/
abbrev PlayerConfigured (s : State) : Prop :=
  s.tableReady = true ∧ (s.prof.get s.rateIndex).valid = true ∧
  s.capacity.toNat = s.conf.cap s.rateIndex ∧
  s.actPrescale = (s.prof.get s.rateIndex).prescale ∧
  (s.actX, s.actY) =
    (if s.mode = .spedUp then ((s.prof.get s.rateIndex).fastX, (s.prof.get s.rateIndex).fastY)
      else ((s.prof.get s.rateIndex).slowX, (s.prof.get s.rateIndex).slowY))

/-- R27 to R29, R56 and R175. -/
abbrev PlayerInv (s : State) : Prop :=
  (s.cfg = false → PlayerUnconfigured s) ∧ (s.cfg = true → PlayerConfigured s) ∧ s.ampEn = s.run

/-- Everything that every step keeps. -/
abbrev Inv (s : State) : Prop := BufferInv s ∧ StorageInv s ∧ TableInv s ∧ PlayerInv s

/-! ### The bytes in the buffer -/

/-- The byte at ring position `(readIndex + j) mod capacity` (R71). -/
def ringByte (s : State) (j : Nat) : Byte := stor s ((s.readIndex.toNat + j) % s.capacity.toNat)

/-- The buffered bytes, oldest first (R30, R71). -/
def buffered (s : State) : List Byte := (List.range s.count.toNat).map (ringByte s)

/-- The `l` bytes the producer wrote linearly from `writeIndex` on (R71, R150). -/
def packetBytes (s : State) (l : Nat) : List Byte := (List.range l).map fun j => stor s (s.writeIndex.toNat + j)

/-- Four bytes as a sample word, the first the least significant (R67). -/
def sampleWord (b0 b1 b2 b3 : Byte) : Word :=
  BitVec.ofNat 32 (b0.toNat + b1.toNat * 2 ^ 8 + b2.toNat * 2 ^ 16 + b3.toNat * 2 ^ 24)

/-- The sample word at a linear offset of `storage` (R70, R172). -/
def wordAt (s : State) (r : Nat) : Word := sampleWord (stor s r) (stor s (r + 1)) (stor s (r + 2)) (stor s (r + 3))

/-! ### The agents' roles -/

/-- The command that a request issues, if it issues one (R37, R63). -/
def issuedCommand (fifoDepth : Nat) (r : Request) : Option Instr :=
  match r with
  | .write32 a v =>
    if a = 0#32 then
      match decode fifoDepth v with
      | .command i => some i
      | .illegal _ => none
    else none
  | .read32 _ => none
  | .read8 _ => none
  | .write8 _ _ => none

/-- The requests an agent makes when it keeps to its role: the producer writes bytes, submits packets and reads; the
drain agent only drains; the host does the rest (R80, R223). The block does not check it. -/
def keepsRole (fifoDepth : Nat) (a : Agent) (r : Request) : Bool :=
  match a, r with
  | .host, .write8 _ _ => false
  | .host, _ =>
    match issuedCommand fifoDepth r with
    | some (.submit _) => false
    | some (.drain _) => false
    | _ => true
  | .producer, .write32 _ _ =>
    match issuedCommand fifoDepth r with
    | some (.submit _) => true
    | _ => false
  | .producer, _ => true
  | .drain, _ =>
    match issuedCommand fifoDepth r with
    | some (.drain _) => true
    | _ => false

/-- Every request still to be made keeps to its agent's role: the well-formedness condition on programs of R223. -/
def Disciplined (s : State) : Bool :=
  s.hostQueue.all (keepsRole s.conf.fifoDepth .host) && s.producerQueue.all (keepsRole s.conf.fifoDepth .producer) &&
    s.drainQueue.all (keepsRole s.conf.fifoDepth .drain)

end Sys2Proof.Machine
end

