-- ==== Sys2Proof/Certificates/Slice0/Obligations.lean ====
section
/-! DEFINITION. The statements for the provers, from the numbered rules of spec/. -/

open Sys2Proof Sys2Proof.Machine

/-! ### Encoding (spec/30_encoding.md) -/

/-- Every well-formed command, with every operand its encoding admits, is what its own word decodes to (R90 to R97,
R101, R103). -/
def Obligations.DecodeInvertsEncode : Prop :=
  ∀ (depth : Nat) (i : Instr), i.wellFormed depth = true → decode depth (encode i) = .command i

/-- Every word has at most one meaning: a word that decodes to a command is that command's word, and the command is well
formed (R96, R98, R103). -/
def Obligations.DecodedWordIsTheCommandsWord : Prop :=
  ∀ (depth : Nat) (c : Word) (i : Instr), decode depth c = .command i → encode i = c ∧ i.wellFormed depth = true

/-- A word spells a row of the opcode map exactly when its masked bits are the row's, but for a `DRAIN` of too many
slots (R96, R98 (c)). -/
def Obligations.WordSpellsTheRowItMatches : Prop :=
  ∀ (depth : Nat) (c : Word) (i : Instr),
    ((∃ j, decode depth c = .command j ∧ rowOf j = rowOf i) ↔
      c &&& (rowOf i).mask = (rowOf i).pattern ∧
        ¬((rowOf i).mnemonic = "DRAIN" ∧ depth < c.toNat / 2 ^ 8 % 16))

/-- An illegal word, in the three cases of R98, raises `IllegalCommand` and does nothing else; every other word is
exactly one command and does what that command does. -/
def Obligations.IllegalWordOnlyRaisesIllegalCommand : Prop :=
  ∀ (s : State) (c : Word),
    if c.toNat % 256 = 0x00 ∨ 0x0A ≤ c.toNat % 256 ∨
        (c.toNat % 256 ∈ [0x01, 0x02, 0x04, 0x05, 0x06, 0x07] ∧ 2 ^ 8 ≤ c.toNat) ∨
        (c.toNat % 256 = 0x03 ∧ 2 ^ 9 ≤ c.toNat) ∨ (c.toNat % 256 = 0x08 ∧ 2 ^ 24 ≤ c.toNat) ∨
        (c.toNat % 256 = 0x09 ∧ 2 ^ 12 ≤ c.toNat) ∨
        (c.toNat % 256 = 0x09 ∧ s.conf.fifoDepth < c.toNat / 2 ^ 8 % 16)
    then issueCommand c s = .next { s with event := s.event ||| 0b010000#6 }
    else ∃ i, decode s.conf.fifoDepth c = .command i ∧ issueCommand c s = exec i s

/-- Seven words written out from R92 to R96 decode to the commands they stand for, and four more are rejected by name
(vectors V-E1, V-E2). -/
def Obligations.WrittenOutWordsDecode : Prop :=
  decode 8 0x00000001#32 = .command .init ∧ decode 8 0x00000002#32 = .command .solve ∧
  decode 8 0x00000103#32 = .command (.setRate .bits32) ∧ decode 8 0x00000003#32 = .command (.setRate .bits24) ∧
  decode 8 0x00003A08#32 = .command (.submit 58#16) ∧ decode 8 0x00FFFF08#32 = .command (.submit 65535#16) ∧
  decode 8 0x00000809#32 = .command (.drain 8#4) ∧ decode 8 0x00000909#32 = .illegal .tooManySlots ∧
  decode 8 0x00000000#32 = .illegal .unknownOp ∧ decode 8 0x01000008#32 = .illegal .reservedBit ∧
  decode 8 0x00000203#32 = .illegal .reservedBit

/-! ### The step, the port and reset (spec/20_memory.md, spec/10_state.md, spec/70_reset_and_hazards.md) -/

/-- When the request next at the port is a write of `CMD` with a word that decodes to `i`, the step is `exec i` at the
state without that request, whichever agent made it (R37, R61, R81, R90). The lists of requests and the port's answer
are the model's fields (log entries 4 and 6). -/
def Obligations.StepRunsTheDecodedCommand : Prop :=
  ∀ (s : State) (a : Agent) (c : Word) (i : Instr) (q : List Request) (rest : List Input),
    s.inputs = .take a :: rest → s.inReset = false → queueOf a s = .write32 0x00#32 c :: q →
    decode s.conf.fifoDepth c = .command i →
    step s = exec i (respond .written (setQueue a q (setInputs rest s)))

/-- A request is taken from the front of its agent's list and performed at the state that the earlier requests left;
the other agents' requests and the inputs still to come stay as they are (R81). That State holds the requests and their
order as lists is the model's choice (log entry 4). -/
def Obligations.RequestsAreTakenInProgramOrder : Prop :=
  ∀ (s : State) (a : Agent) (r : Request) (q : List Request) (rest : List Input),
    s.inputs = .take a :: rest → s.inReset = false → queueOf a s = r :: q →
    step s = perform r (setQueue a q (setInputs rest s)) ∧
    ∀ t, step s = .next t → queueOf a t = q ∧ t.inputs = rest ∧ ∀ b, b ≠ a → queueOf b t = queueOf b s

/-- While reset is asserted no request is taken; when it is released the state is the table of R58, with the
configuration kept (R240). That asserting it moves no other state and that the agents keep their requests is the model's
choice (log entry 7). -/
def Obligations.ResetInputHoldsOffRequestsThenGivesTheResetState : Prop :=
  (∀ (s : State) (rest : List Input), s.inputs = .assertReset :: rest →
    step s = .next { s with inputs := rest, inReset := true }) ∧
  (∀ (s : State) (a : Agent) (rest : List Input), s.inputs = .take a :: rest → s.inReset = true →
    step s = .next { s with inputs := rest }) ∧
  (∀ (s : State) (rest : List Input), s.inputs = .releaseReset :: rest → s.inReset = true →
    step s = .next { State.resetOf s.conf (s.resetDraw + 1) with
      hostQueue := s.hostQueue, producerQueue := s.producerQueue, drainQueue := s.drainQueue, inputs := rest })

/-- The values of R58, for every configuration and every draw of the free bytes of `storage`. A free byte is the model's
form of the table's "unspecified (any bytes)" (log entry 3). -/
def Obligations.ResetValuesAreTheTable : Prop :=
  ∀ (c : Config) (draw : Nat),
    let s := State.resetOf c draw
    s.arg0 = 0 ∧ s.arg1 = 0 ∧ s.res0 = 0 ∧ s.res1 = 0 ∧ s.cstat = .ok ∧ s.event = 0 ∧
    (∀ i : Fin 7, s.prof.get i = ⟨false, 0, 0, 0, 0, 0⟩) ∧ s.tableReady = false ∧
    s.rateIndex = c.params.defaultRateIndex ∧ s.cfg = false ∧ s.run = false ∧ s.capacity = 0 ∧
    s.writeIndex = 0 ∧ s.readIndex = 0 ∧ s.count = 0 ∧ s.mode = .normal ∧ s.lastSample = 0 ∧
    s.actPrescale = 0 ∧ s.actX = 0 ∧ s.actY = 0 ∧ s.ampEn = false ∧
    (∀ k, stor s k = Config.resetByte draw k) ∧ s.txLog = []

/-- What each command does in the reset state. The spec infers the clauses of `DRAIN`, `STREAM_START`, `SET_RATE`,
`SUBMIT` of a byte or more, `GET_RATE`, `SOLVE` and `INIT` from R58 in R241; the others are vectors V-W1 and V-C8 and
R157 at that state. `DRAIN`, `SUBMIT 0`, `STREAM_STOP` and `BUF_RESET` change nothing, `STREAM_START` is refused, every
rate is rejected, every packet with a byte in it overruns, `GET_RATE` answers the default rate, `SOLVE` completes, and
`INIT` builds the table with the solver's result for each rate. -/
def Obligations.CommandsInTheResetState : Prop :=
  ∀ (c : Config) (draw : Nat) (v : Word),
    let s : State := { State.resetOf c draw with arg0 := v }
    (∀ n, exec (.drain n) s = .next s) ∧
    exec .streamStart s = .next { s with event := 0b010000#6 } ∧
    exec .streamStop s = .next s ∧
    exec .bufReset s = .next s ∧
    (∀ fmt, exec (.setRate fmt) s = .next { s with event := 0b000010#6, cstat := .rateUnsupported }) ∧
    (∀ l : BitVec 16, 0 < l.toNat → exec (.submit l) s = .next { s with event := 0b000100#6 }) ∧
    exec (.submit 0#16) s = .next s ∧
    (∃ t, exec .getRate s = .next t ∧
      t.res0.toNat = [8000, 11025, 16000, 22050, 32000, 44100, 48000].getD c.params.defaultRateIndex.val 0) ∧
    Completes (exec .solve s) ∧
    ∃ t, exec .init s = .next t ∧ t.tableReady = true ∧
      ∀ i : Fin 7, t.prof.get i =
        profileOf (solve c.refClkHz ([8000, 11025, 16000, 22050, 32000, 44100, 48000].getD i.val 0) 2 16)

/-- The bits of `STATUS` (R43), its value after reset, that reading it changes nothing but the port's answer and that it
is read-only. -/
def Obligations.StatusRegisterLayout : Prop :=
  (∀ (c : Config) (draw : Nat), (regRead (State.resetOf c draw) .status).toNat = c.params.defaultRateIndex.val * 16) ∧
  (∀ (s : State) (v : Word), perform (.write32 0x1C#32 v) s = .next { s with response := .written }) ∧
  ∀ s : State, ∃ v : Word, perform (.read32 0x1C#32) s = .next { s with response := .word v } ∧
    v.getLsbD 0 = s.run ∧ v.getLsbD 1 = decide (s.mode = .spedUp) ∧ v.getLsbD 2 = s.cfg ∧
    v.getLsbD 3 = s.tableReady ∧ (v.extractLsb' 4 3).toNat = s.rateIndex.val ∧ v.getLsbD 7 = false ∧
    (∀ i : Fin 7, v.getLsbD (8 + i.val) = (s.prof.get i).valid) ∧ v.getLsbD 15 = s.ampEn ∧
    v.extractLsb' 16 16 = 0#16

/-- The fields of `ACTIVE_DIV`, `PROF_A[i]` and `PROF_B[i]`, which are 0 for an entry that is not valid (R42, R48,
R135). -/
def Obligations.DividerAndProfileRegisterLayouts : Prop :=
  ∀ s : State,
    (∃ v : Word, perform (.read32 0x38#32) s = .next { s with response := .word v } ∧
      v.extractLsb' 0 8 = s.actY ∧ v.extractLsb' 8 8 = s.actX ∧ v.extractLsb' 16 6 = s.actPrescale ∧
      v.extractLsb' 22 10 = 0#10) ∧
    (∀ i : Fin 7, (s.prof.get i).valid = true →
      ∃ v : Word, perform (.read32 (BitVec.ofNat 32 (0x40 + 8 * i.val))) s = .next { s with response := .word v } ∧
        v.getLsbD 31 = true ∧ v.extractLsb' 16 6 = (s.prof.get i).prescale ∧
        v.extractLsb' 8 8 = (s.prof.get i).fastX ∧ v.extractLsb' 0 8 = (s.prof.get i).fastY ∧
        v.extractLsb' 22 9 = 0#9) ∧
    (∀ i : Fin 7, (s.prof.get i).valid = true →
      ∃ v : Word, perform (.read32 (BitVec.ofNat 32 (0x44 + 8 * i.val))) s = .next { s with response := .word v } ∧
        v.extractLsb' 8 8 = (s.prof.get i).slowX ∧ v.extractLsb' 0 8 = (s.prof.get i).slowY ∧
        v.extractLsb' 16 16 = 0#16) ∧
    (∀ i : Fin 7, (s.prof.get i).valid = false →
      perform (.read32 (BitVec.ofNat 32 (0x40 + 8 * i.val))) s = .next { s with response := .word 0 } ∧
      perform (.read32 (BitVec.ofNat 32 (0x44 + 8 * i.val))) s = .next { s with response := .word 0 })

/-- What the other registers read as, and that a read changes nothing but the port's answer (R37 to R41, R44 to R47,
R62). -/
def Obligations.OtherRegistersReadTheirState : Prop :=
  ∀ s : State,
    let reads (a : Word) (v : Nat) : Prop :=
      ∃ w : Word, perform (.read32 a) s = .next { s with response := .word w } ∧ w.toNat = v
    reads 0x00#32 0 ∧ reads 0x04#32 s.arg0.toNat ∧ reads 0x08#32 s.arg1.toNat ∧ reads 0x0C#32 s.res0.toNat ∧
    reads 0x10#32 s.res1.toNat ∧
    reads 0x14#32
      (match s.cstat with | .ok => 0 | .noValidDivider => 1 | .rateUnsupported => 2 | .illegalCommand => 5) ∧
    reads 0x18#32 s.event.toNat ∧ reads 0x20#32 s.capacity.toNat ∧ reads 0x24#32 s.writeIndex.toNat ∧
    reads 0x28#32 s.readIndex.toNat ∧ reads 0x2C#32 s.count.toNat ∧
    (s.writeIndex.toNat < s.conf.storageSize → reads 0x30#32 (s.conf.storageBase + s.writeIndex.toNat)) ∧
    reads 0x34#32 s.lastSample.toNat ∧ reads 0x3C#32 s.conf.refClkHz

/-- A 32-bit write of each register: `CMD` issues the command, `ARG0` and `ARG1[15:0]` are written, a 1 written to a bit
of `EVENT` clears it, a read-only register discards the write without a flag, and any other write is a bus error
(R63). -/
def Obligations.RegisterWriteEffects : Prop :=
  ∀ (s : State) (v : Word),
    let w : State := { s with response := .written }
    perform (.write32 0x00#32 v) s = issueCommand v w ∧
    perform (.write32 0x04#32 v) s = .next { w with arg0 := v } ∧
    perform (.write32 0x08#32 v) s = .next { w with arg1 := v.extractLsb' 0 16 } ∧
    (∃ t, perform (.write32 0x18#32 v) s = .next t ∧ t = { w with event := t.event } ∧
      ∀ b, b < 6 → t.event.getLsbD b = (s.event.getLsbD b && !v.getLsbD b)) ∧
    ∀ a : Word,
      (a.toNat % 4 = 0 → a.toNat ≤ 0x74 → a ∉ [0x00#32, 0x04#32, 0x08#32, 0x18#32] →
        perform (.write32 a v) s = .next w) ∧
      (a.toNat % 4 ≠ 0 ∨ 0x74 < a.toNat →
        perform (.write32 a v) s = .next { s with event := s.event ||| 0b100000#6, response := .writeError })

/-- An 8-bit write in the window changes that byte of `storage` and no other state, and later reads see it; an 8-bit
read returns the byte and has no side effect (R64, R65, R86). -/
def Obligations.StorageWindowReadsBackWrites : Prop :=
  ∀ (s : State) (k : Nat) (v : Byte), k < s.conf.storageSize →
    perform (.read8 (BitVec.ofNat 32 (s.conf.storageBase + k))) s = .next { s with response := .byte (stor s k) } ∧
    ∃ t, perform (.write8 (BitVec.ofNat 32 (s.conf.storageBase + k)) v) s = .next t ∧
      t = { s with storage := t.storage, response := .written } ∧
      (∀ j, stor t j = if j = k then v else stor s j) ∧
      perform (.read8 (BitVec.ofNat 32 (s.conf.storageBase + k))) t = .next { t with response := .byte v }

/-- A request that is not legal sets `EVENT.BUS` and does nothing else: a read returns 0, a write is discarded, the port
signals an error response (R66). -/
def Obligations.IllegalRequestIsABusErrorAndNothingElse : Prop :=
  ∀ (s : State) (a v : Word) (b : Byte),
    (a.toNat % 4 ≠ 0 ∨ 0x74 < a.toNat →
      perform (.read32 a) s = .next { s with event := s.event ||| 0b100000#6, response := .readError } ∧
      perform (.write32 a v) s = .next { s with event := s.event ||| 0b100000#6, response := .writeError }) ∧
    (a.toNat < s.conf.storageBase ∨ s.conf.storageBase + s.conf.storageSize ≤ a.toNat →
      perform (.read8 a) s = .next { s with event := s.event ||| 0b100000#6, response := .readError } ∧
      perform (.write8 a b) s = .next { s with event := s.event ||| 0b100000#6, response := .writeError }) ∧
    readData .readError = some 0 ∧ isErrorResponse .readError = true ∧ isErrorResponse .writeError = true

/-! ### The solver (spec/40_solver.md) -/

/-- `Solve` fails exactly when step 1 finds no `N`, which is exactly when `A >= REF` (R130, R132 (a)). -/
def Obligations.SolveFailsExactlyWhenTargetReachesClock : Prop :=
  ∀ ref r c b : Nat, 1 ≤ ref →
    (solve ref r c b = none ↔ ∀ n, 1 ≤ n → n ≤ 64 → 2 ^ 16 ≤ r * c * b * 2 ^ 16 * n / ref) ∧
    (solve ref r c b = none ↔ ref ≤ r * c * b)

/-- Step 1 takes the largest `n` in `1 .. 64` with `d(n) < 2^16` and fails when none qualifies; `prescale` is one less,
in `0 .. 63` (R121, R129). -/
def Obligations.SolveTakesTheLargestPrescale : Prop :=
  ∀ ref r c b : Nat, 1 ≤ ref →
    match solve ref r c b with
    | none => ∀ n, 1 ≤ n → n ≤ 64 → 2 ^ 16 ≤ r * c * b * 2 ^ 16 * n / ref
    | some p => p.prescale ≤ 63 ∧
        ∃ n, p.prescale = n - 1 ∧ 1 ≤ n ∧ n ≤ 64 ∧ r * c * b * 2 ^ 16 * n / ref < 2 ^ 16 ∧
          ∀ m, n < m → m ≤ 64 → 2 ^ 16 ≤ r * c * b * 2 ^ 16 * m / ref

/-- Step 2: `fastY` is the round-up denominator and `slowY` the round-down denominator of smallest error, the largest
among equals, and 255 when the class is empty (R123, R124, R128). -/
def Obligations.SolveKeepsTheBestDenominators : Prop :=
  ∀ (ref r c b : Nat) (p : Solution), 1 ≤ ref → solve ref r c b = some p →
    let frac (y : Nat) : Nat := y * (r * c * b * 2 ^ 16 * (p.prescale + 1) / ref) % 2 ^ 16
    ((∃ y, 1 ≤ y ∧ y ≤ 255 ∧ 0x8000 < frac y) →
      1 ≤ p.fastY ∧ p.fastY ≤ 255 ∧ 0x8000 < frac p.fastY ∧
      ∀ y, 1 ≤ y → y ≤ 255 → 0x8000 < frac y →
        0x10000 - frac p.fastY < 0x10000 - frac y ∨ (frac p.fastY = frac y ∧ y ≤ p.fastY)) ∧
    ((∀ y, 1 ≤ y → y ≤ 255 → frac y ≤ 0x8000) → p.fastY = 255) ∧
    ((∃ y, 1 ≤ y ∧ y ≤ 255 ∧ frac y ≤ 0x8000) →
      1 ≤ p.slowY ∧ p.slowY ≤ 255 ∧ frac p.slowY ≤ 0x8000 ∧
      ∀ y, 1 ≤ y → y ≤ 255 → frac y ≤ 0x8000 →
        frac p.slowY < frac y ∨ (frac p.slowY = frac y ∧ y ≤ p.slowY)) ∧
    ((∀ y, 1 ≤ y → y ≤ 255 → 0x8000 < frac y) → p.slowY = 255)

/-- The numerators come from the exact inputs, the upper clamp never acts and the lower clamp acts only on `slowX`; all
four results are in `1 .. 255` (R125 to R127, R132 (d)). -/
def Obligations.SolveNumeratorsNeedNoUpperClamp : Prop :=
  ∀ (ref r c b : Nat) (p : Solution), 1 ≤ ref → solve ref r c b = some p →
    p.fastX = p.fastY * (r * c * b) * (p.prescale + 1) / ref + 1 ∧
    p.slowX = max 1 (p.slowY * (r * c * b) * (p.prescale + 1) / ref) ∧
    1 ≤ p.fastX ∧ p.fastX ≤ 255 ∧ 1 ≤ p.fastY ∧ p.fastY ≤ 255 ∧
    1 ≤ p.slowX ∧ p.slowX ≤ 255 ∧ 1 ≤ p.slowY ∧ p.slowY ≤ 255

/-- The fast pair lies strictly above the exact ratio `R = A N / REF`, and the slow pair at or below it exactly when its
direct numerator is not 0 (R26, R132 (e)). Ratios are compared by cross-multiplication (R17). -/
def Obligations.FastPairIsAboveSlowPairBelowTheTarget : Prop :=
  ∀ (ref r c b : Nat) (p : Solution), 1 ≤ ref → solve ref r c b = some p →
    r * c * b * (p.prescale + 1) * p.fastY < p.fastX * ref ∧
    (p.slowX * ref ≤ r * c * b * (p.prescale + 1) * p.slowY ↔
      1 ≤ p.slowY * (r * c * b) * (p.prescale + 1) / ref)

/-- With `A = 0` the result is `(63, 1, 255, 1, 255)`, no failure (R132 (f)). -/
def Obligations.ZeroTargetSolves : Prop :=
  ∀ ref r c b : Nat, 1 ≤ ref → r * c * b = 0 → solve ref r c b = some ⟨63, 1, 255, 1, 255⟩

/-- `SOLVE` (word `0x00000002`) completes in every state. When `A >= REF_CLK_HZ` both results are 0, `EVENT.NVD` is set
and `CSTAT` is 1; else the solver has a result, `RES0` and `RES1` hold it packed and `CSTAT` is 0. Nothing else changes
(R140, with the packing of R135). -/
def Obligations.SolveCommandReportsTheSolution : Prop :=
  ∀ s : State,
    let channels := s.arg1.toNat % 256
    let bits := s.arg1.toNat / 256
    decode s.conf.fifoDepth 0x00000002#32 = .command .solve ∧
    if s.conf.refClkHz ≤ s.arg0.toNat * channels * bits then
      exec .solve s = .next { s with res0 := 0, res1 := 0, event := s.event ||| 0b000001#6, cstat := .noValidDivider }
    else ∃ (p : Solution) (v0 v1 : Word), solve s.conf.refClkHz s.arg0.toNat channels bits = some p ∧
      exec .solve s = .next { s with res0 := v0, res1 := v1, cstat := .ok } ∧
      v0.toNat = 2 ^ 31 + p.prescale * 2 ^ 16 + p.fastX * 2 ^ 8 + p.fastY ∧ v1.toNat = p.slowX * 2 ^ 8 + p.slowY

/-- `INIT` completes in every state. The first one fills all seven entries from the solver, sets `tableReady`, and
reports whether every rate solved; a repeated one is refused and leaves the table; nothing else changes (R24, R25,
R141). -/
def Obligations.InitBuildsTheTableOnce : Prop :=
  ∀ s : State,
    if s.tableReady then exec .init s = .next { s with event := s.event ||| 0b010000#6, cstat := .illegalCommand }
    else ∃ t, exec .init s = .next t ∧
      t = { s with prof := t.prof, tableReady := true, event := t.event, cstat := t.cstat } ∧
      (∀ i : Fin 7,
        match solve s.conf.refClkHz ([8000, 11025, 16000, 22050, 32000, 44100, 48000].getD i.val 0) 2 16 with
        | none => t.prof.get i = ⟨false, 0, 0, 0, 0, 0⟩
        | some p => (t.prof.get i).valid = true ∧ (t.prof.get i).prescale.toNat = p.prescale ∧
            (t.prof.get i).fastX.toNat = p.fastX ∧ (t.prof.get i).fastY.toNat = p.fastY ∧
            (t.prof.get i).slowX.toNat = p.slowX ∧ (t.prof.get i).slowY.toNat = p.slowY) ∧
      (if ∀ i : Fin 7, (t.prof.get i).valid = true then t.event = s.event ∧ t.cstat = .ok
        else t.event = s.event ||| 0b000001#6 ∧ t.cstat = .noValidDivider)

/-- After the first `INIT` the failing rates are an upper segment of the table, and all seven succeed exactly when
`REF_CLK_HZ > 1536000` (R141). -/
def Obligations.InitFailsOnAnUpperSegment : Prop :=
  ∀ s t : State, s.tableReady = false → exec .init s = .next t →
    (∀ i j : Fin 7, i ≤ j → (t.prof.get j).valid = true → (t.prof.get i).valid = true) ∧
    ((∀ i : Fin 7, (t.prof.get i).valid = true) ↔ 1536000 < s.conf.refClkHz)

/-! ### Rate and stream control (spec/43_stream_control.md) -/

/-- An accepted `SET_RATE` of either format completes and performs `Reinit`: the rate, its capacity, the empty buffer,
NORMAL mode with the slow pair; `run`, `lastSample`, `storage`, `ampEn` and all else stay (R190, R191). -/
def Obligations.AcceptedRateReinitialisesThePlayer : Prop :=
  ∀ (s : State) (fmt : RateFormat) (i : Fin 7),
    (match fmt with | .bits24 => s.arg0.toNat % 2 ^ 24 | .bits32 => s.arg0.toNat) =
      [8000, 11025, 16000, 22050, 32000, 44100, 48000].getD i.val 0 →
    (s.prof.get i).valid = true →
    ∃ t, exec (.setRate fmt) s = .next t ∧ t.capacity.toNat = s.conf.cap i ∧
      t = { s with
        rateIndex := i, capacity := t.capacity, count := 0, writeIndex := 0, readIndex := 0, mode := .normal
        actPrescale := (s.prof.get i).prescale, actX := (s.prof.get i).slowX, actY := (s.prof.get i).slowY
        cfg := true, cstat := .ok }

/-- A rate above 48000, not in the table, or whose entry is not valid is rejected: `EVENT.RUS` and `CSTAT` and nothing
else (R191, R212). -/
def Obligations.RejectedRateChangesNothingElse : Prop :=
  ∀ (s : State) (fmt : RateFormat),
    (∀ i : Fin 7,
      (match fmt with | .bits24 => s.arg0.toNat % 2 ^ 24 | .bits32 => s.arg0.toNat) =
        [8000, 11025, 16000, 22050, 32000, 44100, 48000].getD i.val 0 → (s.prof.get i).valid = false) →
    exec (.setRate fmt) s = .next { s with event := s.event ||| 0b000010#6, cstat := .rateUnsupported }

/-- `GET_RATE` (word `0x00000004`) completes in every state with the current rate in `RES0` and `CSTAT` 0; the low three
bytes are the 24-bit form; nothing else changes (R192). -/
def Obligations.GetRateAnswersTheCurrentRate : Prop :=
  ∀ s : State, ∃ v : Word, decode s.conf.fifoDepth 0x00000004#32 = .command .getRate ∧
    exec .getRate s = .next { s with res0 := v, cstat := .ok } ∧
    v.toNat = [8000, 11025, 16000, 22050, 32000, 44100, 48000].getD s.rateIndex.val 0 ∧
    (v.extractLsb' 0 24).toNat = v.toNat

/-- `STREAM_START` (word `0x00000005`) completes: with a profile loaded it resets the buffer and sets `run` and `ampEn`,
and the outputs `irqEn` and `clkRun` are then 1; else it is refused with `EVENT.ILL`. Nothing else changes (R193). -/
def Obligations.StreamStartRunsOnlyWithAProfile : Prop :=
  ∀ s : State,
    decode s.conf.fifoDepth 0x00000005#32 = .command .streamStart ∧
    (s.cfg = true →
      let t : State := { s with count := 0, writeIndex := 0, readIndex := 0, run := true, ampEn := true }
      exec .streamStart s = .next t ∧ irqEn t = true ∧ clkRun t = true) ∧
    (s.cfg = false → exec .streamStart s = .next { s with event := s.event ||| 0b010000#6 })

/-- `STREAM_STOP` (word `0x00000006`) completes in every state: `run` and `ampEn` are cleared and the buffer reset, the
outputs `irqEn` and `clkRun` are 0 and a `DRAIN` then does nothing; nothing else changes (R194). -/
def Obligations.StreamStopMasksTheDrain : Prop :=
  ∀ s : State,
    let t : State := { s with run := false, ampEn := false, count := 0, writeIndex := 0, readIndex := 0 }
    decode s.conf.fifoDepth 0x00000006#32 = .command .streamStop ∧
    exec .streamStop s = .next t ∧ irqEn t = false ∧ clkRun t = false ∧ ∀ n, exec (.drain n) t = .next t

/-- In every state the outputs `irqEn` and `clkRun` are both `run` (R56). -/
def Obligations.InterruptEnableAndClockRequestFollowRun : Prop :=
  ∀ s : State, irqEn s = s.run ∧ clkRun s = s.run

/-- `BUF_RESET` (word `0x00000007`) completes in every state, zeroes the three indices and changes nothing else, and is
idempotent (R157). -/
def Obligations.BufResetIsIdempotent : Prop :=
  ∀ s : State,
    let t : State := { s with count := 0, writeIndex := 0, readIndex := 0 }
    decode s.conf.fifoDepth 0x00000007#32 = .command .bufReset ∧
    exec .bufReset s = .next t ∧ exec .bufReset t = .next t ∧ ∀ k, stor t k = stor s k

/-- None of the four ways to reset the buffer without changing the rate writes `mode` or the active divider: overrun,
`BUF_RESET`, `STREAM_START`, `STREAM_STOP` (R195). -/
def Obligations.BufferResetsKeepTheSpeedMode : Prop :=
  ∀ (s t : State) (i : Instr),
    i = .bufReset ∨ i = .streamStart ∨ i = .streamStop ∨
      (∃ l : BitVec 16, i = .submit l ∧ s.capacity.toNat < s.count.toNat + l.toNat) →
    exec i s = .next t →
    t.mode = s.mode ∧ t.actPrescale = s.actPrescale ∧ t.actX = s.actX ∧ t.actY = s.actY

/-! ### The write path (spec/41_buffer_write.md) -/

/-- The overrun of `SUBMIT` (R153). A packet that does not fit resets the whole buffer and sets `EVENT.OVR`; nothing
else changes, no byte of `storage` and not the speed mode among it, and the next packet goes to offset 0. The test is
strict: a packet that fills the buffer exactly is accepted. -/
def Obligations.OverrunResetsTheWholeBuffer : Prop :=
  ∀ (s : State) (l : BitVec 16),
    (s.capacity.toNat < s.count.toNat + l.toNat →
      ∃ t, exec (.submit l) s = .next t ∧
        t = { s with count := 0, writeIndex := 0, readIndex := 0, event := s.event ||| 0b000100#6 } ∧
        (∀ k, stor t k = stor s k) ∧ (regRead t .nextWr).toNat = s.conf.storageBase) ∧
    (BufferInv s → FitsTwice s → s.count.toNat + l.toNat = s.capacity.toNat →
      ∃ t, exec (.submit l) s = .next t ∧ t.count = s.capacity ∧ t.event = s.event)

/-- `SUBMIT L` (word `0x08 + L * 2^8`), as its pseudocode has it (R152). A packet that does not fit resets the buffer. A
packet that fits completes: `count` grows by `L`; `writeIndex` advances by `L`, less `capacity` once it reaches it, and
then the bytes beyond `capacity` are copied to the start; no other byte and no other state changes. The premises of that
clause are invariants of the machine. `NEXT_WR` then reads `STORAGE_BASE + writeIndex`. -/
def Obligations.SubmitFollowsItsPseudocode : Prop :=
  ∀ (s : State) (l : BitVec 16),
    decode s.conf.fifoDepth (BitVec.ofNat 32 (0x00000008 + l.toNat * 2 ^ 8)) = .command (.submit l) ∧
    (s.capacity.toNat < s.count.toNat + l.toNat →
      exec (.submit l) s = .next
        { s with count := 0, writeIndex := 0, readIndex := 0, event := s.event ||| 0b000100#6 }) ∧
    (BufferInv s → FitsTwice s → s.count.toNat + l.toNat ≤ s.capacity.toNat →
      ∃ t, exec (.submit l) s = .next t ∧
        t = { s with count := t.count, writeIndex := t.writeIndex, storage := t.storage } ∧
        t.count.toNat = s.count.toNat + l.toNat ∧
        (if s.capacity.toNat ≤ s.writeIndex.toNat + l.toNat then
          t.writeIndex.toNat = s.writeIndex.toNat + l.toNat - s.capacity.toNat ∧
          ∀ k, stor t k =
            if k < s.writeIndex.toNat + l.toNat - s.capacity.toNat then stor s (s.capacity.toNat + k) else stor s k
        else t.writeIndex.toNat = s.writeIndex.toNat + l.toNat ∧ t.storage = s.storage)) ∧
    ∀ t, exec (.submit l) s = .next t → regRead t .nextWr = BitVec.ofNat 32 (s.conf.storageBase + t.writeIndex.toNat)

/-- A packet that fits is appended: the buffered bytes after `SUBMIT L` are those before, followed by the `L` bytes that
the producer wrote linearly from `writeIndex` on, though they run past `capacity` (R71, R150, R154). -/
def Obligations.SubmitAppendsThePacketBytes : Prop :=
  ∀ (s t : State) (l : BitVec 16), BufferInv s → FitsTwice s → s.count.toNat + l.toNat ≤ s.capacity.toNat →
    exec (.submit l) s = .next t → buffered t = buffered s ++ packetBytes s l.toNat

/-- For packets from an empty reset buffer whose lengths add up to at most `capacity`, the count is the sum of the
lengths, no event is raised and no byte of `storage` moves (R156 (b)). -/
def Obligations.PacketsThatFitTogetherNeedNoCopy : Prop :=
  ∀ (s : State) (ls : List (BitVec 16)), s.count = 0 → s.writeIndex = 0 → s.readIndex = 0 → FitsTwice s →
    (ls.map BitVec.toNat).sum ≤ s.capacity.toNat →
    ∃ t, runCommands (ls.map Instr.submit) s = .next t ∧
      t = { s with count := t.count, writeIndex := t.writeIndex } ∧ t.count.toNat = (ls.map BitVec.toNat).sum

/-- `NEXT_WR` after a `SUBMIT` is the block address of the byte at the new `writeIndex` (R46, R155). -/
def Obligations.NextWriteAddressFollowsTheWriteIndex : Prop :=
  ∀ (s t : State) (l : BitVec 16), BufferInv s → FitsTwice s → 0 < s.capacity.toNat →
    exec (.submit l) s = .next t →
    (regRead t .nextWr).toNat = s.conf.storageBase + t.writeIndex.toNat ∧ t.writeIndex.toNat < s.capacity.toNat

/-! ### The drain path (spec/42_drain_player.md) -/

/-- While `run = 0`, `DRAIN n` completes and does nothing at all (R176). -/
def Obligations.MaskedDrainDoesNothing : Prop :=
  ∀ (s : State) (n : BitVec 4), s.run = false → exec (.drain n) s = .next s

/-- `DRAIN n` while streaming completes. It consumes `m = min(n, count / 4)` samples, each read
linearly at the read index and pushed in order, then repeats the last sample `n - m` times, with `EVENT.UDR` if it
repeats any. The hysteresis step touches only `mode`, `actX` and `actY`, and nothing else changes (R171 to R173, R177,
R178 (c)). -/
def Obligations.DrainConsumesThenRepeats : Prop :=
  ∀ (s : State) (n : BitVec 4), BufferInv s → FitsTwice s → s.run = true →
    let m := min n.toNat (s.count.toNat / 4)
    let words := (List.range m).map fun j => wordAt s ((s.readIndex.toNat + 4 * j) % s.capacity.toNat)
    let last := words.getLast?.getD s.lastSample
    ∃ t, exec (.drain n) s = .next t ∧
      t.count.toNat = s.count.toNat - 4 * m ∧
      t.readIndex.toNat = (s.readIndex.toNat + 4 * m) % s.capacity.toNat ∧
      t = { s with
        count := t.count, readIndex := t.readIndex, lastSample := last
        txLog := s.txLog ++ words ++ List.replicate (n.toNat - m) last
        event := if m < n.toNat then s.event ||| 0b001000#6 else s.event
        mode := t.mode, actX := t.actX, actY := t.actY }

/-- The hysteresis step of every effective `DRAIN`, `DRAIN 0` too, on the count its slots left (R174): the four rows of
the state machine of `mode`, with the numerator and denominator of the active divider; the prescale never changes. -/
def Obligations.HysteresisStateMachine : Prop :=
  ∀ (s t : State) (n : BitVec 4), s.run = true → exec (.drain n) s = .next t →
    t.actPrescale = s.actPrescale ∧
    (s.mode = .normal → 5 * t.capacity.toNat ≤ 8 * t.count.toNat →
      t.mode = .spedUp ∧ t.actX = (s.prof.get s.rateIndex).fastX ∧ t.actY = (s.prof.get s.rateIndex).fastY) ∧
    (s.mode = .normal → 8 * t.count.toNat < 5 * t.capacity.toNat →
      t.mode = .normal ∧ t.actX = s.actX ∧ t.actY = s.actY) ∧
    (s.mode = .spedUp → 8 * t.count.toNat < 3 * t.capacity.toNat →
      t.mode = .normal ∧ t.actX = (s.prof.get s.rateIndex).slowX ∧ t.actY = (s.prof.get s.rateIndex).slowY) ∧
    (s.mode = .spedUp → 3 * t.capacity.toNat ≤ 8 * t.count.toNat →
      t.mode = .spedUp ∧ t.actX = s.actX ∧ t.actY = s.actY)

/-- What `DRAIN` leaves unchanged in every state: `writeIndex`, `capacity`, every byte of `storage`, `actPrescale`,
`run`, the table, the operands, results and completion code; and while `run = 1` it appends exactly `n` words to `txLog`
(R171, R177). -/
def Obligations.DrainFrame : Prop :=
  ∀ (s t : State) (n : BitVec 4), exec (.drain n) s = .next t →
    t = { s with
      count := t.count, readIndex := t.readIndex, lastSample := t.lastSample, txLog := t.txLog, event := t.event
      mode := t.mode, actX := t.actX, actY := t.actY } ∧
    (∀ k, stor t k = stor s k) ∧
    (s.run = true → ∃ ws : List Word, ws.length = n.toNat ∧ t.txLog = s.txLog ++ ws)

/-- A sample that does not straddle `capacity` is the four oldest buffered bytes, least significant first, and leaves
the rest in order (R67, R71, R172). -/
def Obligations.DrainPlaysTheOldestBytes : Prop :=
  ∀ s t : State, BufferInv s → s.run = true → 4 ≤ s.count.toNat → s.readIndex.toNat + 4 ≤ s.capacity.toNat →
    exec (.drain 1#4) s = .next t →
    ∃ b0 b1 b2 b3 : Byte, buffered s = [b0, b1, b2, b3] ++ buffered t ∧
      t.txLog = s.txLog ++ [sampleWord b0 b1 b2 b3] ∧ t.lastSample = sampleWord b0 b1 b2 b3

/-- With a capacity that is a multiple of 4, `readIndex` stays a multiple of 4 and no fetch enters the slack region
(R172). -/
def Obligations.AlignedCapacityKeepsTheReadIndexAligned : Prop :=
  ∀ (s t : State) (n : BitVec 4), BufferInv s → 4 ∣ s.capacity.toNat → 4 ∣ s.readIndex.toNat →
    exec (.drain n) s = .next t →
    4 ∣ t.readIndex.toNat ∧ (0 < t.capacity.toNat → t.readIndex.toNat + 4 ≤ t.capacity.toNat)

/-- A packet and a tick that are both pending give the same indices, count, samples and bytes in either order, when the
packet fits and the samples are there; only the speed mode and its divider may differ (R81, program P5). -/
def Obligations.PacketAndTickCommuteButForTheSpeed : Prop :=
  ∀ (s : State) (l : BitVec 16) (n : BitVec 4), BufferInv s → FitsTwice s → s.run = true →
    s.count.toNat + l.toNat ≤ s.capacity.toNat → 4 * n.toNat ≤ s.count.toNat →
    ∃ t u : State, runCommands [.submit l, .drain n] s = .next t ∧ runCommands [.drain n, .submit l] s = .next u ∧
      u = { t with mode := u.mode, actX := u.actX, actY := u.actY }

/-! ### The whole machine -/

/-- Every step keeps the invariants: R31 of the buffer, the canonical form of storage, the immutable table, and the
agreement of the player's state with its profile (R25, R27, R29, R31, R35, R175). -/
def Obligations.StepKeepsTheInvariant : Prop :=
  ∀ s t : State, Inv s → step s = .next t → Inv t

/-- The reset state of every configuration meets the invariants, the machine's own among them (R58). -/
def Obligations.ResetMeetsTheInvariant : Prop :=
  (∀ (c : Config) (draw : Nat), Inv (State.resetOf c draw)) ∧ Inv State.reset

/-- In a state that keeps the invariants the buffer fits twice into `storage`, which is the premise of the statements
about the write and drain paths (R12, R13, R29). -/
def Obligations.InvariantGivesRoomForTheTail : Prop :=
  ∀ s : State, Inv s → FitsTwice s

/-- No step stops the machine: whatever the agents ask and in whatever order, the next step completes, so no fetch or
tail copy leaves `storage` and no index is reduced modulo 0 (R70, R85, R172). -/
def Obligations.NoStepStops : Prop :=
  ∀ s : State, Inv s → Completes (step s)

/-- Once built, the table changes only by a reset (R25, R240). No step changes the configuration either: R20 makes the
parameters no state of the block but parameters of the step relation, and that the model holds them in a field of State
which no step writes is its own choice (log entry 1). -/
def Obligations.TableAndConfigurationStayFixed : Prop :=
  ∀ s t : State, step s = .next t →
    t.conf = s.conf ∧
    (s.tableReady = true → s.inReset = false → t.tableReady = true ∧ t.prof = s.prof)

/-- No command writes `ARG0` or `ARG1`; only `INIT`, `SOLVE`, `SET_RATE` and `GET_RATE` write `CSTAT`, only `SOLVE` and
`GET_RATE` write the results; and no command clears an event (R21, R38 to R40, R221). -/
def Obligations.WhoWritesTheHostRegisters : Prop :=
  ∀ (i : Instr) (s t : State), exec i s = .next t →
    t.arg0 = s.arg0 ∧ t.arg1 = s.arg1 ∧
    (i ≠ .solve → i ≠ .getRate → t.res0 = s.res0) ∧ (i ≠ .solve → t.res1 = s.res1) ∧
    (i ≠ .init → i ≠ .solve → i ≠ .getRate → (∀ fmt, i ≠ .setRate fmt) → t.cstat = s.cstat) ∧
    t.event &&& s.event = s.event

/-- Between two `SUBMIT`s the block itself writes no byte of `storage`: no other command changes any (R155). -/
def Obligations.OnlySubmitWritesStorage : Prop :=
  ∀ (i : Instr) (s t : State), (∀ l, i ≠ .submit l) → exec i s = .next t → ∀ k, stor t k = stor s k

/-- A producer or drain agent that keeps to its role disturbs no operand, result or completion code of the host, nor the
table, the rate, `run` or the outputs (R21, R83, R223, R256). -/
def Obligations.ProducerAndDrainLeaveTheHostsState : Prop :=
  ∀ (s t : State) (a : Agent) (r : Request) (q : List Request) (rest : List Input),
    a ≠ .host → s.inputs = .take a :: rest → s.inReset = false → queueOf a s = r :: q →
    keepsRole s.conf.fifoDepth a r = true → step s = .next t →
    t.arg0 = s.arg0 ∧ t.arg1 = s.arg1 ∧ t.res0 = s.res0 ∧ t.res1 = s.res1 ∧ t.cstat = s.cstat ∧ t.prof = s.prof ∧
    t.tableReady = s.tableReady ∧ t.rateIndex = s.rateIndex ∧ t.cfg = s.cfg ∧ t.capacity = s.capacity ∧
    irqEn t = irqEn s ∧ clkRun t = clkRun s ∧ t.ampEn = s.ampEn
end

