-- ==== Sys2Proof/Laws/Memory.lean ====
section
/-! SUPPORT. Storage: read after write, every other byte, the canonical form, and the tail copy said once. -/

namespace Sys2Proof.Machine

/-- Read after write, and a write leaves every other offset alone. -/
theorem lookup_put (k j : Nat) (b : Byte) (m : Memory) :
    Memory.lookup j (Memory.put k b m) = if j = k then some b else Memory.lookup j m := by
  induction m with
  | nil => simp [Memory.put, Memory.lookup, eq_comm]
  | cons c m ih =>
    rcases lt_trichotomy k c.1 with h | h | h
    · simp [Memory.put, Memory.lookup, h, eq_comm (a := k)]
    · by_cases hj : j = k
      · simp [Memory.put, Memory.lookup, h, hj]
      · have hc : c.1 ≠ j := fun hc => hj (hc.symm.trans h.symm)
        simp [Memory.put, Memory.lookup, h, hc, hc.symm]
    · have h1 : ¬k < c.1 := by omega
      have h2 : ¬k = c.1 := by omega
      by_cases hc : c.1 = j
      · subst hc
        simp [Memory.put, Memory.lookup, h1, h2, Ne.symm h2]
      · simp [Memory.put, Memory.lookup, h1, h2, hc, ih]

theorem byteAt_put (draw k j : Nat) (b : Byte) (m : Memory) :
    Memory.byteAt draw (Memory.put k b m) j = if j = k then b else Memory.byteAt draw m j := by
  unfold Memory.byteAt
  rw [lookup_put]
  split_ifs <;> rfl

/-- The offsets listed after a write: the one written and the ones before. -/
theorem mem_put {k : Nat} {b : Byte} {m : Memory} {c : Host.Cell} (h : c ∈ Memory.put k b m) :
    c = (k, b) ∨ c ∈ m := by
  induction m with
  | nil => simpa [Memory.put] using h
  | cons d m ih =>
    unfold Memory.put at h
    split_ifs at h with h1 h2
    · simpa using h
    · rcases List.mem_cons.1 h with h | h
      · exact .inl h
      · exact .inr (List.mem_cons_of_mem _ h)
    · rcases List.mem_cons.1 h with h | h
      · exact .inr (by simp [h])
      · exact (ih h).imp_right (List.mem_cons_of_mem _)

theorem wf_iff_pairwise (m : Memory) : Memory.wf m = true ↔ m.Pairwise fun c d => c.1 < d.1 := by
  induction m with
  | nil => simp [Memory.wf]
  | cons c m ih =>
    cases m with
    | nil => simp [Memory.wf]
    | cons d m =>
      simp only [Memory.wf, Bool.and_eq_true, decide_eq_true_eq, ih]
      constructor
      · rintro ⟨h1, h2⟩
        refine List.pairwise_cons.2 ⟨fun e he => ?_, h2⟩
        rcases List.mem_cons.1 he with rfl | he
        · exact h1
        · exact lt_trans h1 ((List.pairwise_cons.1 h2).1 e he)
      · intro h
        have h' := List.pairwise_cons.1 h
        exact ⟨h'.1 d (by simp), h'.2⟩

/-- A write keeps the canonical form. -/
theorem wf_put {k : Nat} {b : Byte} {m : Memory} (h : Memory.wf m = true) : Memory.wf (Memory.put k b m) = true := by
  rw [wf_iff_pairwise] at h ⊢
  induction m with
  | nil => simp [Memory.put]
  | cons c m ih =>
    have h' := List.pairwise_cons.1 h
    unfold Memory.put
    split_ifs with h1 h2
    · refine List.pairwise_cons.2 ⟨fun d hd => ?_, h⟩
      rcases List.mem_cons.1 hd with rfl | hd
      · exact h1
      · exact lt_trans h1 (h'.1 d hd)
    · exact List.pairwise_cons.2 ⟨fun d hd => by simpa [h2] using h'.1 d hd, h'.2⟩
    · refine List.pairwise_cons.2 ⟨fun d hd => ?_, ih h'.2⟩
      rcases mem_put hd with rfl | hd
      · change c.1 < k
        omega
      · exact h'.1 d hd

/-- The tail copy keeps the canonical form and lists no offset at or above its end. -/
theorem copyTail_keeps {draw cap size : Nat} (t k : Nat) {m : Memory} (hw : Memory.wf m = true)
    (hb : ∀ c ∈ m, c.1 < size) (ht : k + t ≤ size) :
    Memory.wf (copyTail draw cap k t m) = true ∧ ∀ c ∈ copyTail draw cap k t m, c.1 < size := by
  induction t generalizing k m with
  | zero => exact ⟨hw, hb⟩
  | succ t ih =>
    refine ih (k + 1) (wf_put hw) (fun c hc => ?_) (by omega)
    rcases mem_put hc with rfl | hc
    · change k < size
      omega
    · exact hb c hc

/-- What the tail copy leaves, when the copied bytes lie above the places they are copied to (R154). -/
theorem byteAt_copyTail {draw cap : Nat} (t k : Nat) (m : Memory) (h : k + t ≤ cap) (j : Nat) :
    Memory.byteAt draw (copyTail draw cap k t m) j =
      if k ≤ j ∧ j < k + t then Memory.byteAt draw m (cap + j) else Memory.byteAt draw m j := by
  induction t generalizing k m with
  | zero => simp [copyTail]
  | succ t ih =>
    simp only [copyTail]
    rw [ih (k + 1) _ (by omega), byteAt_put, byteAt_put]
    by_cases hj : j = k
    · subst hj
      simp
    · have h3 : cap + j ≠ k := by omega
      have h4 : (k + 1 ≤ j ∧ j < k + 1 + t) ↔ (k ≤ j ∧ j < k + (t + 1)) := by omega
      simp only [hj, h3, h4, if_false]

/-- `MemRead(k, 4)` is the little-endian value of its four bytes (R19, R67). -/
theorem memRead_four (s : State) (k : Nat) :
    memRead s k 4 = (stor s k).toNat + (stor s (k + 1)).toNat * 2 ^ 8 + (stor s (k + 2)).toNat * 2 ^ 16 +
      (stor s (k + 3)).toNat * 2 ^ 24 := by
  simp only [memRead, Nat.add_assoc, Nat.reduceAdd]
  ring

end Sys2Proof.Machine
end

