-- ==== Sys2Proof/Laws/Config.lean ====
section
/-! SUPPORT. What a legal configuration guarantees, one lemma per constraint of R11 to R16 of spec/00_scope.md. -/

namespace Sys2Proof

theorem Config.refClk_pos (c : Config) : 0 < c.refClkHz := c.legal.1.1

theorem Config.refClk_lt (c : Config) : c.refClkHz < 2 ^ 32 := c.legal.1.2

theorem Config.cap_22050 (c : Config) : c.cap 3 = 1764 := c.legal.2.1.1

theorem Config.four_le_cap (c : Config) (i : Fin 7) : 4 ≤ c.cap i := (c.legal.2.1.2 i).1

theorem Config.two_mul_cap_le (c : Config) (i : Fin 7) : 2 * c.cap i ≤ c.storageSize := (c.legal.2.1.2 i).2

theorem Config.storageSize_le (c : Config) : c.storageSize ≤ 65536 := c.legal.2.2.1

theorem Config.storageBase_ge (c : Config) : 0x100 ≤ c.storageBase := c.legal.2.2.2.1.2.1

theorem Config.window_lt (c : Config) : c.storageBase + c.storageSize ≤ 2 ^ 32 := c.legal.2.2.2.1.2.2

theorem Config.fifoDepth_pos (c : Config) : 1 ≤ c.fifoDepth := c.legal.2.2.2.2.1

theorem Config.fifoDepth_le (c : Config) : c.fifoDepth ≤ 15 := c.legal.2.2.2.2.2

/-- A capacity fits in 16 bits. -/
theorem Config.cap_lt (c : Config) (i : Fin 7) : c.cap i < 65536 := by
  have h1 := c.two_mul_cap_le i
  have h2 := c.storageSize_le
  have h3 := c.four_le_cap i
  omega

end Sys2Proof
end

