-- ==== Sys2Proof/Laws/Solver.lean ====
section
/-! SUPPORT. What the parts of the solver compute, each said once: the prescale scan, the tracker of the best
candidate, the denominator scan, the direct numerator. -/

namespace Sys2Proof.Machine

/-- The prescale scan finds the largest hit (R121). -/
theorem findPrescale_eq_some (ref a m n : Nat) :
    findPrescale ref a m = some n ↔
      1 ≤ n ∧ n ≤ m ∧ scaledRatio ref a n < 2 ^ 16 ∧ ∀ k, n < k → k ≤ m → 2 ^ 16 ≤ scaledRatio ref a k := by
  induction m with
  | zero =>
    simp only [findPrescale, reduceCtorEq, false_iff]
    omega
  | succ m ih =>
    unfold findPrescale
    split_ifs with h
    · simp only [Option.some.injEq]
      constructor
      · rintro rfl
        exact ⟨by omega, by omega, h, fun k h1 h2 => by omega⟩
      · rintro ⟨h1, h2, h3, h4⟩
        by_contra hne
        have := h4 (m + 1) (by omega) (by omega)
        omega
    · rw [ih]
      constructor
      · rintro ⟨h1, h2, h3, h4⟩
        refine ⟨h1, by omega, h3, fun k hk hkm => ?_⟩
        rcases Nat.lt_or_ge m k with hm | hm
        · obtain rfl : k = m + 1 := by omega
          omega
        · exact h4 k hk hm
      · rintro ⟨h1, h2, h3, h4⟩
        have hn : n ≠ m + 1 := by
          rintro rfl
          exact h h3
        exact ⟨h1, by omega, h3, fun k hk hkm => h4 k hk (by omega)⟩

/-- The prescale scan runs out exactly when there is no hit (R130). -/
theorem findPrescale_eq_none (ref a m : Nat) :
    findPrescale ref a m = none ↔ ∀ k, 1 ≤ k → k ≤ m → 2 ^ 16 ≤ scaledRatio ref a k := by
  induction m with
  | zero => simp only [findPrescale, true_iff]; omega
  | succ m ih =>
    unfold findPrescale
    split_ifs with h
    · simp only [false_iff, not_forall]
      exact ⟨m + 1, by omega, le_rfl, by omega⟩
    · rw [ih]
      constructor
      · intro hk k h1 h2
        rcases Nat.lt_or_ge m k with hm | hm
        · obtain rfl : k = m + 1 := by omega
          omega
        · exact hk k h1 hm
      · intro hk k h1 h2
        exact hk k h1 (by omega)

/-- `best` is the candidate of smallest error among the members of a class in `lo + 1 .. hi`, the largest denominator
among equals; none when the class has no member there (R124). -/
def IsBest (member : Nat → Prop) (err : Nat → Nat) (lo hi : Nat) : Option Candidate → Prop
  | none => ∀ y, lo < y → y ≤ hi → ¬member y
  | some c => lo < c.y ∧ c.y ≤ hi ∧ member c.y ∧ c.err = err c.y ∧
      ∀ y, lo < y → y ≤ hi → member y → err c.y < err y ∨ (err c.y = err y ∧ y ≤ c.y)

/-- Meeting a member of the class one denominator lower. -/
theorem IsBest.better {member : Nat → Prop} {err : Nat → Nat} {lo hi : Nat} {b : Option Candidate}
    (h : IsBest member err (lo + 1) hi b) (hy : lo + 1 ≤ hi) (hm : member (lo + 1)) :
    IsBest member err lo hi (better b (lo + 1) (err (lo + 1))) := by
  cases b with
  | none =>
    refine ⟨by simp, hy, hm, rfl, fun y h1 h2 h3 => ?_⟩
    rcases Nat.lt_or_ge (lo + 1) y with h4 | h4
    · exact absurd h3 (h y h4 h2)
    · obtain rfl : y = lo + 1 := by omega
      exact .inr ⟨rfl, le_rfl⟩
  | some c =>
    obtain ⟨c1, c2, c3, c4, c5⟩ := h
    show IsBest member err lo hi (if err (lo + 1) < c.err then some ⟨lo + 1, err (lo + 1)⟩ else some c)
    split_ifs with hlt
    · refine ⟨by simp, hy, hm, rfl, fun y h1 h2 h3 => ?_⟩
      rcases Nat.lt_or_ge (lo + 1) y with h4 | h4
      · have := c5 y h4 h2 h3
        left
        show err (lo + 1) < err y
        omega
      · obtain rfl : y = lo + 1 := by omega
        exact .inr ⟨rfl, le_rfl⟩
    · refine ⟨by omega, c2, c3, c4, fun y h1 h2 h3 => ?_⟩
      rcases Nat.lt_or_ge (lo + 1) y with h4 | h4
      · exact c5 y h4 h2 h3
      · obtain rfl : y = lo + 1 := by omega
        omega

/-- Passing a denominator that is no member of the class. -/
theorem IsBest.skip {member : Nat → Prop} {err : Nat → Nat} {lo hi : Nat} {b : Option Candidate}
    (h : IsBest member err (lo + 1) hi b) (hm : ¬member (lo + 1)) : IsBest member err lo hi b := by
  cases b with
  | none =>
    intro y h1 h2
    rcases Nat.lt_or_ge (lo + 1) y with h4 | h4
    · exact h y h4 h2
    · obtain rfl : y = lo + 1 := by omega
      exact hm
  | some c =>
    obtain ⟨c1, c2, c3, c4, c5⟩ := h
    refine ⟨by omega, c2, c3, c4, fun y h1 h2 h3 => ?_⟩
    rcases Nat.lt_or_ge (lo + 1) y with h4 | h4
    · exact c5 y h4 h2 h3
    · obtain rfl : y = lo + 1 := by omega
      exact absurd h3 hm

/-- A round-up candidate (R123). -/
abbrev RoundsUp (divider y : Nat) : Prop := 0x8000 < y * divider % 2 ^ 16

/-- The rejection test never fires for a 16-bit divider and an 8-bit denominator (R132 (c)). -/
theorem never_rejected {divider y : Nat} (hd : divider < 2 ^ 16) (hy : y ≤ 255) : ¬255 < y * divider / 2 ^ 16 := by
  have h1 : y * divider ≤ 255 * (2 ^ 16 - 1) := Nat.mul_le_mul hy (by omega)
  omega

/-- The denominator scan leaves the best candidate of each class (R123, R124). -/
theorem scanDenominators_isBest {divider hi : Nat} (hd : divider < 2 ^ 16) (hhi : hi ≤ 255) (m : Nat) (hm : m ≤ hi)
    (t : Trackers)
    (hu : IsBest (RoundsUp divider) (fun y => 0x10000 - y * divider % 2 ^ 16) m hi t.bestUp)
    (hw : IsBest (fun y => ¬RoundsUp divider y) (fun y => y * divider % 2 ^ 16) m hi t.bestDown) :
    IsBest (RoundsUp divider) (fun y => 0x10000 - y * divider % 2 ^ 16) 0 hi (scanDenominators divider m t).bestUp ∧
    IsBest (fun y => ¬RoundsUp divider y) (fun y => y * divider % 2 ^ 16) 0 hi
      (scanDenominators divider m t).bestDown := by
  induction m generalizing t with
  | zero => exact ⟨hu, hw⟩
  | succ m ih =>
    have hr := never_rejected hd (show m + 1 ≤ 255 by omega)
    by_cases hc : RoundsUp divider (m + 1)
    · have ht : track divider (m + 1) t =
          { t with bestUp := better t.bestUp (m + 1) (0x10000 - (m + 1) * divider % 2 ^ 16) } := by
        rw [track, if_neg hr, if_pos hc]
      refine ih (by omega) _ ?_ ?_
      · rw [ht]
        exact hu.better hm hc
      · rw [ht]
        exact hw.skip (not_not.2 hc)
    · have ht : track divider (m + 1) t =
          { t with bestDown := better t.bestDown (m + 1) ((m + 1) * divider % 2 ^ 16) } := by
        rw [track, if_neg hr, if_neg hc]
      refine ih (by omega) _ ?_ ?_
      · rw [ht]
        exact hu.skip hc
      · rw [ht]
        exact hw.better hm hc

/-- Both classes after the whole scan (R123, R124). -/
theorem scan_isBest {divider : Nat} (hd : divider < 2 ^ 16) :
    IsBest (RoundsUp divider) (fun y => 0x10000 - y * divider % 2 ^ 16) 0 255
      (scanDenominators divider 255 ⟨none, none⟩).bestUp ∧
    IsBest (fun y => ¬RoundsUp divider y) (fun y => y * divider % 2 ^ 16) 0 255
      (scanDenominators divider 255 ⟨none, none⟩).bestDown :=
  scanDenominators_isBest hd le_rfl 255 le_rfl _ (fun y h1 h2 => by omega) (fun y h1 h2 => by omega)

/-- A stored denominator is in `1 .. 255` (R124, R128). -/
theorem denominatorOf_range {member : Nat → Prop} {err : Nat → Nat} {b : Option Candidate}
    (h : IsBest member err 0 255 b) : 1 ≤ denominatorOf b ∧ denominatorOf b ≤ 255 := by
  cases b with
  | none => exact ⟨by decide, by decide⟩
  | some c => exact ⟨h.1, h.2.1⟩

/-- The exact ratio of a chosen prescale is below 1 (R132 (b)). -/
theorem target_lt_clock {ref a n : Nat} (href : 0 < ref) (h : scaledRatio ref a n < 2 ^ 16) : a * n < ref := by
  unfold scaledRatio at h
  rw [Nat.div_lt_iff_lt_mul href] at h
  have : a * 2 ^ 16 * n = a * n * 2 ^ 16 := by ring
  omega

/-- The direct numerator stays below its denominator (R132 (d)). -/
theorem directNumerator_lt {ref a n y : Nat} (hlt : a * n < ref) (hy : 1 ≤ y) : directNumerator ref a n y < y := by
  unfold directNumerator
  rw [Nat.div_lt_iff_lt_mul (by omega), Nat.mul_assoc]
  exact Nat.mul_lt_mul_of_pos_left hlt hy

/-- A solution is `solveWith` of the prescale that the scan found (R131). -/
theorem solve_eq_some {ref r c b : Nat} {p : Solution} (h : solve ref r c b = some p) :
    ∃ n, findPrescale ref (r * c * b) 64 = some n ∧ p = solveWith ref (r * c * b) n := by
  unfold solve at h
  obtain ⟨n, hn, rfl⟩ := Option.map_eq_some_iff.1 h
  exact ⟨n, hn, rfl⟩

/-- The parts of a solution in terms of its own prescale (R122 to R129). -/
theorem solve_parts {ref r c b : Nat} {p : Solution} (h : solve ref r c b = some p) :
    p.prescale + 1 ≤ 64 ∧ scaledRatio ref (r * c * b) (p.prescale + 1) < 2 ^ 16 ∧
    p = solveWith ref (r * c * b) (p.prescale + 1) := by
  obtain ⟨n, hn, rfl⟩ := solve_eq_some h
  obtain ⟨h1, h2, h3, -⟩ := (findPrescale_eq_some _ _ _ _).1 hn
  have hp : (solveWith ref (r * c * b) n).prescale + 1 = n := by
    simp only [solveWith]
    omega
  rw [hp]
  exact ⟨h2, h3, rfl⟩

/-- A solve fails exactly when the prescale scan runs out (R130). -/
theorem solve_eq_none (ref r c b : Nat) : solve ref r c b = none ↔ findPrescale ref (r * c * b) 64 = none := by
  unfold solve
  rw [Option.map_eq_none_iff]
  rfl

theorem get_seven {α : Type} (f : Fin 7 → α) (i : Fin 7) :
    (#v[f 0, f 1, f 2, f 3, f 4, f 5, f 6] : Vector α 7).get i = f i := by
  fin_cases i <;> rfl

@[simp] theorem get_buildTable (ref : Nat) (i : Fin 7) : (buildTable ref).get i = tableEntry ref i :=
  get_seven (tableEntry ref) i

end Sys2Proof.Machine
end

