-- ==== Sys2Proof/Laws/State.lean ====
section
/-! SUPPORT. What each small update of the state does to each field: one lemma per field per update, so that no later
proof unfolds a record update. -/

namespace Sys2Proof.Machine

/-! ### The flag of each event (R44, R210) -/

@[simp] theorem eventBit_noValidDivider : eventBit .noValidDivider = 0b000001#6 := rfl
@[simp] theorem eventBit_rateUnsupported : eventBit .rateUnsupported = 0b000010#6 := rfl
@[simp] theorem eventBit_bufferOverrun : eventBit .bufferOverrun = 0b000100#6 := rfl
@[simp] theorem eventBit_bufferUnderrun : eventBit .bufferUnderrun = 0b001000#6 := rfl
@[simp] theorem eventBit_illegalCommand : eventBit .illegalCommand = 0b010000#6 := rfl
@[simp] theorem eventBit_busError : eventBit .busError = 0b100000#6 := rfl

/-! ### `raise` -/

@[simp] theorem raise_conf (e : Event) (s : State) : (raise e s).conf = s.conf := rfl
@[simp] theorem raise_arg0 (e : Event) (s : State) : (raise e s).arg0 = s.arg0 := rfl
@[simp] theorem raise_arg1 (e : Event) (s : State) : (raise e s).arg1 = s.arg1 := rfl
@[simp] theorem raise_res0 (e : Event) (s : State) : (raise e s).res0 = s.res0 := rfl
@[simp] theorem raise_res1 (e : Event) (s : State) : (raise e s).res1 = s.res1 := rfl
@[simp] theorem raise_cstat (e : Event) (s : State) : (raise e s).cstat = s.cstat := rfl
@[simp] theorem raise_event (e : Event) (s : State) : (raise e s).event = s.event ||| eventBit e := rfl
@[simp] theorem raise_prof (e : Event) (s : State) : (raise e s).prof = s.prof := rfl
@[simp] theorem raise_tableReady (e : Event) (s : State) : (raise e s).tableReady = s.tableReady := rfl
@[simp] theorem raise_rateIndex (e : Event) (s : State) : (raise e s).rateIndex = s.rateIndex := rfl
@[simp] theorem raise_cfg (e : Event) (s : State) : (raise e s).cfg = s.cfg := rfl
@[simp] theorem raise_run (e : Event) (s : State) : (raise e s).run = s.run := rfl
@[simp] theorem raise_capacity (e : Event) (s : State) : (raise e s).capacity = s.capacity := rfl
@[simp] theorem raise_writeIndex (e : Event) (s : State) : (raise e s).writeIndex = s.writeIndex := rfl
@[simp] theorem raise_readIndex (e : Event) (s : State) : (raise e s).readIndex = s.readIndex := rfl
@[simp] theorem raise_count (e : Event) (s : State) : (raise e s).count = s.count := rfl
@[simp] theorem raise_mode (e : Event) (s : State) : (raise e s).mode = s.mode := rfl
@[simp] theorem raise_lastSample (e : Event) (s : State) : (raise e s).lastSample = s.lastSample := rfl
@[simp] theorem raise_actPrescale (e : Event) (s : State) : (raise e s).actPrescale = s.actPrescale := rfl
@[simp] theorem raise_actX (e : Event) (s : State) : (raise e s).actX = s.actX := rfl
@[simp] theorem raise_actY (e : Event) (s : State) : (raise e s).actY = s.actY := rfl
@[simp] theorem raise_ampEn (e : Event) (s : State) : (raise e s).ampEn = s.ampEn := rfl
@[simp] theorem raise_storage (e : Event) (s : State) : (raise e s).storage = s.storage := rfl
@[simp] theorem raise_txLog (e : Event) (s : State) : (raise e s).txLog = s.txLog := rfl
@[simp] theorem raise_resetDraw (e : Event) (s : State) : (raise e s).resetDraw = s.resetDraw := rfl
@[simp] theorem raise_inReset (e : Event) (s : State) : (raise e s).inReset = s.inReset := rfl
@[simp] theorem raise_hostQueue (e : Event) (s : State) : (raise e s).hostQueue = s.hostQueue := rfl
@[simp] theorem raise_producerQueue (e : Event) (s : State) : (raise e s).producerQueue = s.producerQueue := rfl
@[simp] theorem raise_drainQueue (e : Event) (s : State) : (raise e s).drainQueue = s.drainQueue := rfl
@[simp] theorem raise_inputs (e : Event) (s : State) : (raise e s).inputs = s.inputs := rfl
@[simp] theorem raise_response (e : Event) (s : State) : (raise e s).response = s.response := rfl

/-! ### `clearEvents` -/

@[simp] theorem clearEvents_conf (v : Word) (s : State) : (clearEvents v s).conf = s.conf := rfl
@[simp] theorem clearEvents_arg0 (v : Word) (s : State) : (clearEvents v s).arg0 = s.arg0 := rfl
@[simp] theorem clearEvents_arg1 (v : Word) (s : State) : (clearEvents v s).arg1 = s.arg1 := rfl
@[simp] theorem clearEvents_res0 (v : Word) (s : State) : (clearEvents v s).res0 = s.res0 := rfl
@[simp] theorem clearEvents_res1 (v : Word) (s : State) : (clearEvents v s).res1 = s.res1 := rfl
@[simp] theorem clearEvents_cstat (v : Word) (s : State) : (clearEvents v s).cstat = s.cstat := rfl
@[simp] theorem clearEvents_event (v : Word) (s : State) :
    (clearEvents v s).event = s.event &&& ~~~(v.setWidth 6) := rfl
@[simp] theorem clearEvents_prof (v : Word) (s : State) : (clearEvents v s).prof = s.prof := rfl
@[simp] theorem clearEvents_tableReady (v : Word) (s : State) : (clearEvents v s).tableReady = s.tableReady := rfl
@[simp] theorem clearEvents_rateIndex (v : Word) (s : State) : (clearEvents v s).rateIndex = s.rateIndex := rfl
@[simp] theorem clearEvents_cfg (v : Word) (s : State) : (clearEvents v s).cfg = s.cfg := rfl
@[simp] theorem clearEvents_run (v : Word) (s : State) : (clearEvents v s).run = s.run := rfl
@[simp] theorem clearEvents_capacity (v : Word) (s : State) : (clearEvents v s).capacity = s.capacity := rfl
@[simp] theorem clearEvents_writeIndex (v : Word) (s : State) : (clearEvents v s).writeIndex = s.writeIndex := rfl
@[simp] theorem clearEvents_readIndex (v : Word) (s : State) : (clearEvents v s).readIndex = s.readIndex := rfl
@[simp] theorem clearEvents_count (v : Word) (s : State) : (clearEvents v s).count = s.count := rfl
@[simp] theorem clearEvents_mode (v : Word) (s : State) : (clearEvents v s).mode = s.mode := rfl
@[simp] theorem clearEvents_lastSample (v : Word) (s : State) : (clearEvents v s).lastSample = s.lastSample := rfl
@[simp] theorem clearEvents_actPrescale (v : Word) (s : State) : (clearEvents v s).actPrescale = s.actPrescale := rfl
@[simp] theorem clearEvents_actX (v : Word) (s : State) : (clearEvents v s).actX = s.actX := rfl
@[simp] theorem clearEvents_actY (v : Word) (s : State) : (clearEvents v s).actY = s.actY := rfl
@[simp] theorem clearEvents_ampEn (v : Word) (s : State) : (clearEvents v s).ampEn = s.ampEn := rfl
@[simp] theorem clearEvents_storage (v : Word) (s : State) : (clearEvents v s).storage = s.storage := rfl
@[simp] theorem clearEvents_txLog (v : Word) (s : State) : (clearEvents v s).txLog = s.txLog := rfl
@[simp] theorem clearEvents_resetDraw (v : Word) (s : State) : (clearEvents v s).resetDraw = s.resetDraw := rfl
@[simp] theorem clearEvents_inReset (v : Word) (s : State) : (clearEvents v s).inReset = s.inReset := rfl
@[simp] theorem clearEvents_hostQueue (v : Word) (s : State) : (clearEvents v s).hostQueue = s.hostQueue := rfl
@[simp] theorem clearEvents_producerQueue (v : Word) (s : State) :
    (clearEvents v s).producerQueue = s.producerQueue := rfl
@[simp] theorem clearEvents_drainQueue (v : Word) (s : State) : (clearEvents v s).drainQueue = s.drainQueue := rfl
@[simp] theorem clearEvents_inputs (v : Word) (s : State) : (clearEvents v s).inputs = s.inputs := rfl
@[simp] theorem clearEvents_response (v : Word) (s : State) : (clearEvents v s).response = s.response := rfl

/-! ### `complete` -/

@[simp] theorem complete_conf (c : Completion) (s : State) : (complete c s).conf = s.conf := rfl
@[simp] theorem complete_arg0 (c : Completion) (s : State) : (complete c s).arg0 = s.arg0 := rfl
@[simp] theorem complete_arg1 (c : Completion) (s : State) : (complete c s).arg1 = s.arg1 := rfl
@[simp] theorem complete_res0 (c : Completion) (s : State) : (complete c s).res0 = s.res0 := rfl
@[simp] theorem complete_res1 (c : Completion) (s : State) : (complete c s).res1 = s.res1 := rfl
@[simp] theorem complete_cstat (c : Completion) (s : State) : (complete c s).cstat = c := rfl
@[simp] theorem complete_event (c : Completion) (s : State) : (complete c s).event = s.event := rfl
@[simp] theorem complete_prof (c : Completion) (s : State) : (complete c s).prof = s.prof := rfl
@[simp] theorem complete_tableReady (c : Completion) (s : State) : (complete c s).tableReady = s.tableReady := rfl
@[simp] theorem complete_rateIndex (c : Completion) (s : State) : (complete c s).rateIndex = s.rateIndex := rfl
@[simp] theorem complete_cfg (c : Completion) (s : State) : (complete c s).cfg = s.cfg := rfl
@[simp] theorem complete_run (c : Completion) (s : State) : (complete c s).run = s.run := rfl
@[simp] theorem complete_capacity (c : Completion) (s : State) : (complete c s).capacity = s.capacity := rfl
@[simp] theorem complete_writeIndex (c : Completion) (s : State) : (complete c s).writeIndex = s.writeIndex := rfl
@[simp] theorem complete_readIndex (c : Completion) (s : State) : (complete c s).readIndex = s.readIndex := rfl
@[simp] theorem complete_count (c : Completion) (s : State) : (complete c s).count = s.count := rfl
@[simp] theorem complete_mode (c : Completion) (s : State) : (complete c s).mode = s.mode := rfl
@[simp] theorem complete_lastSample (c : Completion) (s : State) : (complete c s).lastSample = s.lastSample := rfl
@[simp] theorem complete_actPrescale (c : Completion) (s : State) : (complete c s).actPrescale = s.actPrescale := rfl
@[simp] theorem complete_actX (c : Completion) (s : State) : (complete c s).actX = s.actX := rfl
@[simp] theorem complete_actY (c : Completion) (s : State) : (complete c s).actY = s.actY := rfl
@[simp] theorem complete_ampEn (c : Completion) (s : State) : (complete c s).ampEn = s.ampEn := rfl
@[simp] theorem complete_storage (c : Completion) (s : State) : (complete c s).storage = s.storage := rfl
@[simp] theorem complete_txLog (c : Completion) (s : State) : (complete c s).txLog = s.txLog := rfl
@[simp] theorem complete_resetDraw (c : Completion) (s : State) : (complete c s).resetDraw = s.resetDraw := rfl
@[simp] theorem complete_inReset (c : Completion) (s : State) : (complete c s).inReset = s.inReset := rfl
@[simp] theorem complete_hostQueue (c : Completion) (s : State) : (complete c s).hostQueue = s.hostQueue := rfl
@[simp] theorem complete_producerQueue (c : Completion) (s : State) :
    (complete c s).producerQueue = s.producerQueue := rfl
@[simp] theorem complete_drainQueue (c : Completion) (s : State) : (complete c s).drainQueue = s.drainQueue := rfl
@[simp] theorem complete_inputs (c : Completion) (s : State) : (complete c s).inputs = s.inputs := rfl
@[simp] theorem complete_response (c : Completion) (s : State) : (complete c s).response = s.response := rfl

/-! ### `storWrite` -/

@[simp] theorem storWrite_conf (k : Nat) (b : Byte) (s : State) : (storWrite k b s).conf = s.conf := rfl
@[simp] theorem storWrite_arg0 (k : Nat) (b : Byte) (s : State) : (storWrite k b s).arg0 = s.arg0 := rfl
@[simp] theorem storWrite_arg1 (k : Nat) (b : Byte) (s : State) : (storWrite k b s).arg1 = s.arg1 := rfl
@[simp] theorem storWrite_res0 (k : Nat) (b : Byte) (s : State) : (storWrite k b s).res0 = s.res0 := rfl
@[simp] theorem storWrite_res1 (k : Nat) (b : Byte) (s : State) : (storWrite k b s).res1 = s.res1 := rfl
@[simp] theorem storWrite_cstat (k : Nat) (b : Byte) (s : State) : (storWrite k b s).cstat = s.cstat := rfl
@[simp] theorem storWrite_event (k : Nat) (b : Byte) (s : State) : (storWrite k b s).event = s.event := rfl
@[simp] theorem storWrite_prof (k : Nat) (b : Byte) (s : State) : (storWrite k b s).prof = s.prof := rfl
@[simp] theorem storWrite_tableReady (k : Nat) (b : Byte) (s : State) :
    (storWrite k b s).tableReady = s.tableReady := rfl
@[simp] theorem storWrite_rateIndex (k : Nat) (b : Byte) (s : State) : (storWrite k b s).rateIndex = s.rateIndex := rfl
@[simp] theorem storWrite_cfg (k : Nat) (b : Byte) (s : State) : (storWrite k b s).cfg = s.cfg := rfl
@[simp] theorem storWrite_run (k : Nat) (b : Byte) (s : State) : (storWrite k b s).run = s.run := rfl
@[simp] theorem storWrite_capacity (k : Nat) (b : Byte) (s : State) : (storWrite k b s).capacity = s.capacity := rfl
@[simp] theorem storWrite_writeIndex (k : Nat) (b : Byte) (s : State) :
    (storWrite k b s).writeIndex = s.writeIndex := rfl
@[simp] theorem storWrite_readIndex (k : Nat) (b : Byte) (s : State) : (storWrite k b s).readIndex = s.readIndex := rfl
@[simp] theorem storWrite_count (k : Nat) (b : Byte) (s : State) : (storWrite k b s).count = s.count := rfl
@[simp] theorem storWrite_mode (k : Nat) (b : Byte) (s : State) : (storWrite k b s).mode = s.mode := rfl
@[simp] theorem storWrite_lastSample (k : Nat) (b : Byte) (s : State) :
    (storWrite k b s).lastSample = s.lastSample := rfl
@[simp] theorem storWrite_actPrescale (k : Nat) (b : Byte) (s : State) :
    (storWrite k b s).actPrescale = s.actPrescale := rfl
@[simp] theorem storWrite_actX (k : Nat) (b : Byte) (s : State) : (storWrite k b s).actX = s.actX := rfl
@[simp] theorem storWrite_actY (k : Nat) (b : Byte) (s : State) : (storWrite k b s).actY = s.actY := rfl
@[simp] theorem storWrite_ampEn (k : Nat) (b : Byte) (s : State) : (storWrite k b s).ampEn = s.ampEn := rfl
@[simp] theorem storWrite_storage (k : Nat) (b : Byte) (s : State) :
    (storWrite k b s).storage = Memory.put k b s.storage := rfl
@[simp] theorem storWrite_txLog (k : Nat) (b : Byte) (s : State) : (storWrite k b s).txLog = s.txLog := rfl
@[simp] theorem storWrite_resetDraw (k : Nat) (b : Byte) (s : State) : (storWrite k b s).resetDraw = s.resetDraw := rfl
@[simp] theorem storWrite_inReset (k : Nat) (b : Byte) (s : State) : (storWrite k b s).inReset = s.inReset := rfl
@[simp] theorem storWrite_hostQueue (k : Nat) (b : Byte) (s : State) : (storWrite k b s).hostQueue = s.hostQueue := rfl
@[simp] theorem storWrite_producerQueue (k : Nat) (b : Byte) (s : State) :
    (storWrite k b s).producerQueue = s.producerQueue := rfl
@[simp] theorem storWrite_drainQueue (k : Nat) (b : Byte) (s : State) :
    (storWrite k b s).drainQueue = s.drainQueue := rfl
@[simp] theorem storWrite_inputs (k : Nat) (b : Byte) (s : State) : (storWrite k b s).inputs = s.inputs := rfl
@[simp] theorem storWrite_response (k : Nat) (b : Byte) (s : State) : (storWrite k b s).response = s.response := rfl

/-! ### `push` -/

@[simp] theorem push_conf (v : Word) (s : State) : (push v s).conf = s.conf := rfl
@[simp] theorem push_arg0 (v : Word) (s : State) : (push v s).arg0 = s.arg0 := rfl
@[simp] theorem push_arg1 (v : Word) (s : State) : (push v s).arg1 = s.arg1 := rfl
@[simp] theorem push_res0 (v : Word) (s : State) : (push v s).res0 = s.res0 := rfl
@[simp] theorem push_res1 (v : Word) (s : State) : (push v s).res1 = s.res1 := rfl
@[simp] theorem push_cstat (v : Word) (s : State) : (push v s).cstat = s.cstat := rfl
@[simp] theorem push_event (v : Word) (s : State) : (push v s).event = s.event := rfl
@[simp] theorem push_prof (v : Word) (s : State) : (push v s).prof = s.prof := rfl
@[simp] theorem push_tableReady (v : Word) (s : State) : (push v s).tableReady = s.tableReady := rfl
@[simp] theorem push_rateIndex (v : Word) (s : State) : (push v s).rateIndex = s.rateIndex := rfl
@[simp] theorem push_cfg (v : Word) (s : State) : (push v s).cfg = s.cfg := rfl
@[simp] theorem push_run (v : Word) (s : State) : (push v s).run = s.run := rfl
@[simp] theorem push_capacity (v : Word) (s : State) : (push v s).capacity = s.capacity := rfl
@[simp] theorem push_writeIndex (v : Word) (s : State) : (push v s).writeIndex = s.writeIndex := rfl
@[simp] theorem push_readIndex (v : Word) (s : State) : (push v s).readIndex = s.readIndex := rfl
@[simp] theorem push_count (v : Word) (s : State) : (push v s).count = s.count := rfl
@[simp] theorem push_mode (v : Word) (s : State) : (push v s).mode = s.mode := rfl
@[simp] theorem push_lastSample (v : Word) (s : State) : (push v s).lastSample = s.lastSample := rfl
@[simp] theorem push_actPrescale (v : Word) (s : State) : (push v s).actPrescale = s.actPrescale := rfl
@[simp] theorem push_actX (v : Word) (s : State) : (push v s).actX = s.actX := rfl
@[simp] theorem push_actY (v : Word) (s : State) : (push v s).actY = s.actY := rfl
@[simp] theorem push_ampEn (v : Word) (s : State) : (push v s).ampEn = s.ampEn := rfl
@[simp] theorem push_storage (v : Word) (s : State) : (push v s).storage = s.storage := rfl
@[simp] theorem push_txLog (v : Word) (s : State) : (push v s).txLog = s.txLog ++ [v] := rfl
@[simp] theorem push_resetDraw (v : Word) (s : State) : (push v s).resetDraw = s.resetDraw := rfl
@[simp] theorem push_inReset (v : Word) (s : State) : (push v s).inReset = s.inReset := rfl
@[simp] theorem push_hostQueue (v : Word) (s : State) : (push v s).hostQueue = s.hostQueue := rfl
@[simp] theorem push_producerQueue (v : Word) (s : State) : (push v s).producerQueue = s.producerQueue := rfl
@[simp] theorem push_drainQueue (v : Word) (s : State) : (push v s).drainQueue = s.drainQueue := rfl
@[simp] theorem push_inputs (v : Word) (s : State) : (push v s).inputs = s.inputs := rfl
@[simp] theorem push_response (v : Word) (s : State) : (push v s).response = s.response := rfl

/-! ### `bufReset` -/

@[simp] theorem bufReset_conf (s : State) : (bufReset s).conf = s.conf := rfl
@[simp] theorem bufReset_arg0 (s : State) : (bufReset s).arg0 = s.arg0 := rfl
@[simp] theorem bufReset_arg1 (s : State) : (bufReset s).arg1 = s.arg1 := rfl
@[simp] theorem bufReset_res0 (s : State) : (bufReset s).res0 = s.res0 := rfl
@[simp] theorem bufReset_res1 (s : State) : (bufReset s).res1 = s.res1 := rfl
@[simp] theorem bufReset_cstat (s : State) : (bufReset s).cstat = s.cstat := rfl
@[simp] theorem bufReset_event (s : State) : (bufReset s).event = s.event := rfl
@[simp] theorem bufReset_prof (s : State) : (bufReset s).prof = s.prof := rfl
@[simp] theorem bufReset_tableReady (s : State) : (bufReset s).tableReady = s.tableReady := rfl
@[simp] theorem bufReset_rateIndex (s : State) : (bufReset s).rateIndex = s.rateIndex := rfl
@[simp] theorem bufReset_cfg (s : State) : (bufReset s).cfg = s.cfg := rfl
@[simp] theorem bufReset_run (s : State) : (bufReset s).run = s.run := rfl
@[simp] theorem bufReset_capacity (s : State) : (bufReset s).capacity = s.capacity := rfl
@[simp] theorem bufReset_writeIndex (s : State) : (bufReset s).writeIndex = 0 := rfl
@[simp] theorem bufReset_readIndex (s : State) : (bufReset s).readIndex = 0 := rfl
@[simp] theorem bufReset_count (s : State) : (bufReset s).count = 0 := rfl
@[simp] theorem bufReset_mode (s : State) : (bufReset s).mode = s.mode := rfl
@[simp] theorem bufReset_lastSample (s : State) : (bufReset s).lastSample = s.lastSample := rfl
@[simp] theorem bufReset_actPrescale (s : State) : (bufReset s).actPrescale = s.actPrescale := rfl
@[simp] theorem bufReset_actX (s : State) : (bufReset s).actX = s.actX := rfl
@[simp] theorem bufReset_actY (s : State) : (bufReset s).actY = s.actY := rfl
@[simp] theorem bufReset_ampEn (s : State) : (bufReset s).ampEn = s.ampEn := rfl
@[simp] theorem bufReset_storage (s : State) : (bufReset s).storage = s.storage := rfl
@[simp] theorem bufReset_txLog (s : State) : (bufReset s).txLog = s.txLog := rfl
@[simp] theorem bufReset_resetDraw (s : State) : (bufReset s).resetDraw = s.resetDraw := rfl
@[simp] theorem bufReset_inReset (s : State) : (bufReset s).inReset = s.inReset := rfl
@[simp] theorem bufReset_hostQueue (s : State) : (bufReset s).hostQueue = s.hostQueue := rfl
@[simp] theorem bufReset_producerQueue (s : State) : (bufReset s).producerQueue = s.producerQueue := rfl
@[simp] theorem bufReset_drainQueue (s : State) : (bufReset s).drainQueue = s.drainQueue := rfl
@[simp] theorem bufReset_inputs (s : State) : (bufReset s).inputs = s.inputs := rfl
@[simp] theorem bufReset_response (s : State) : (bufReset s).response = s.response := rfl

/-! ### `respond` -/

@[simp] theorem respond_conf (r : Response) (s : State) : (respond r s).conf = s.conf := rfl
@[simp] theorem respond_arg0 (r : Response) (s : State) : (respond r s).arg0 = s.arg0 := rfl
@[simp] theorem respond_arg1 (r : Response) (s : State) : (respond r s).arg1 = s.arg1 := rfl
@[simp] theorem respond_res0 (r : Response) (s : State) : (respond r s).res0 = s.res0 := rfl
@[simp] theorem respond_res1 (r : Response) (s : State) : (respond r s).res1 = s.res1 := rfl
@[simp] theorem respond_cstat (r : Response) (s : State) : (respond r s).cstat = s.cstat := rfl
@[simp] theorem respond_event (r : Response) (s : State) : (respond r s).event = s.event := rfl
@[simp] theorem respond_prof (r : Response) (s : State) : (respond r s).prof = s.prof := rfl
@[simp] theorem respond_tableReady (r : Response) (s : State) : (respond r s).tableReady = s.tableReady := rfl
@[simp] theorem respond_rateIndex (r : Response) (s : State) : (respond r s).rateIndex = s.rateIndex := rfl
@[simp] theorem respond_cfg (r : Response) (s : State) : (respond r s).cfg = s.cfg := rfl
@[simp] theorem respond_run (r : Response) (s : State) : (respond r s).run = s.run := rfl
@[simp] theorem respond_capacity (r : Response) (s : State) : (respond r s).capacity = s.capacity := rfl
@[simp] theorem respond_writeIndex (r : Response) (s : State) : (respond r s).writeIndex = s.writeIndex := rfl
@[simp] theorem respond_readIndex (r : Response) (s : State) : (respond r s).readIndex = s.readIndex := rfl
@[simp] theorem respond_count (r : Response) (s : State) : (respond r s).count = s.count := rfl
@[simp] theorem respond_mode (r : Response) (s : State) : (respond r s).mode = s.mode := rfl
@[simp] theorem respond_lastSample (r : Response) (s : State) : (respond r s).lastSample = s.lastSample := rfl
@[simp] theorem respond_actPrescale (r : Response) (s : State) : (respond r s).actPrescale = s.actPrescale := rfl
@[simp] theorem respond_actX (r : Response) (s : State) : (respond r s).actX = s.actX := rfl
@[simp] theorem respond_actY (r : Response) (s : State) : (respond r s).actY = s.actY := rfl
@[simp] theorem respond_ampEn (r : Response) (s : State) : (respond r s).ampEn = s.ampEn := rfl
@[simp] theorem respond_storage (r : Response) (s : State) : (respond r s).storage = s.storage := rfl
@[simp] theorem respond_txLog (r : Response) (s : State) : (respond r s).txLog = s.txLog := rfl
@[simp] theorem respond_resetDraw (r : Response) (s : State) : (respond r s).resetDraw = s.resetDraw := rfl
@[simp] theorem respond_inReset (r : Response) (s : State) : (respond r s).inReset = s.inReset := rfl
@[simp] theorem respond_hostQueue (r : Response) (s : State) : (respond r s).hostQueue = s.hostQueue := rfl
@[simp] theorem respond_producerQueue (r : Response) (s : State) : (respond r s).producerQueue = s.producerQueue := rfl
@[simp] theorem respond_drainQueue (r : Response) (s : State) : (respond r s).drainQueue = s.drainQueue := rfl
@[simp] theorem respond_inputs (r : Response) (s : State) : (respond r s).inputs = s.inputs := rfl
@[simp] theorem respond_response (r : Response) (s : State) : (respond r s).response = r := rfl

/-! ### `setQueue` -/

@[simp] theorem setQueue_conf (a : Agent) (q : List Request) (s : State) :
    (setQueue a q s).conf = s.conf := by cases a <;> rfl
@[simp] theorem setQueue_arg0 (a : Agent) (q : List Request) (s : State) :
    (setQueue a q s).arg0 = s.arg0 := by cases a <;> rfl
@[simp] theorem setQueue_arg1 (a : Agent) (q : List Request) (s : State) :
    (setQueue a q s).arg1 = s.arg1 := by cases a <;> rfl
@[simp] theorem setQueue_res0 (a : Agent) (q : List Request) (s : State) :
    (setQueue a q s).res0 = s.res0 := by cases a <;> rfl
@[simp] theorem setQueue_res1 (a : Agent) (q : List Request) (s : State) :
    (setQueue a q s).res1 = s.res1 := by cases a <;> rfl
@[simp] theorem setQueue_cstat (a : Agent) (q : List Request) (s : State) :
    (setQueue a q s).cstat = s.cstat := by cases a <;> rfl
@[simp] theorem setQueue_event (a : Agent) (q : List Request) (s : State) :
    (setQueue a q s).event = s.event := by cases a <;> rfl
@[simp] theorem setQueue_prof (a : Agent) (q : List Request) (s : State) :
    (setQueue a q s).prof = s.prof := by cases a <;> rfl
@[simp] theorem setQueue_tableReady (a : Agent) (q : List Request) (s : State) :
    (setQueue a q s).tableReady = s.tableReady := by cases a <;> rfl
@[simp] theorem setQueue_rateIndex (a : Agent) (q : List Request) (s : State) :
    (setQueue a q s).rateIndex = s.rateIndex := by cases a <;> rfl
@[simp] theorem setQueue_cfg (a : Agent) (q : List Request) (s : State) :
    (setQueue a q s).cfg = s.cfg := by cases a <;> rfl
@[simp] theorem setQueue_run (a : Agent) (q : List Request) (s : State) :
    (setQueue a q s).run = s.run := by cases a <;> rfl
@[simp] theorem setQueue_capacity (a : Agent) (q : List Request) (s : State) :
    (setQueue a q s).capacity = s.capacity := by cases a <;> rfl
@[simp] theorem setQueue_writeIndex (a : Agent) (q : List Request) (s : State) :
    (setQueue a q s).writeIndex = s.writeIndex := by cases a <;> rfl
@[simp] theorem setQueue_readIndex (a : Agent) (q : List Request) (s : State) :
    (setQueue a q s).readIndex = s.readIndex := by cases a <;> rfl
@[simp] theorem setQueue_count (a : Agent) (q : List Request) (s : State) :
    (setQueue a q s).count = s.count := by cases a <;> rfl
@[simp] theorem setQueue_mode (a : Agent) (q : List Request) (s : State) :
    (setQueue a q s).mode = s.mode := by cases a <;> rfl
@[simp] theorem setQueue_lastSample (a : Agent) (q : List Request) (s : State) :
    (setQueue a q s).lastSample = s.lastSample := by cases a <;> rfl
@[simp] theorem setQueue_actPrescale (a : Agent) (q : List Request) (s : State) :
    (setQueue a q s).actPrescale = s.actPrescale := by cases a <;> rfl
@[simp] theorem setQueue_actX (a : Agent) (q : List Request) (s : State) :
    (setQueue a q s).actX = s.actX := by cases a <;> rfl
@[simp] theorem setQueue_actY (a : Agent) (q : List Request) (s : State) :
    (setQueue a q s).actY = s.actY := by cases a <;> rfl
@[simp] theorem setQueue_ampEn (a : Agent) (q : List Request) (s : State) :
    (setQueue a q s).ampEn = s.ampEn := by cases a <;> rfl
@[simp] theorem setQueue_storage (a : Agent) (q : List Request) (s : State) :
    (setQueue a q s).storage = s.storage := by cases a <;> rfl
@[simp] theorem setQueue_txLog (a : Agent) (q : List Request) (s : State) :
    (setQueue a q s).txLog = s.txLog := by cases a <;> rfl
@[simp] theorem setQueue_resetDraw (a : Agent) (q : List Request) (s : State) :
    (setQueue a q s).resetDraw = s.resetDraw := by cases a <;> rfl
@[simp] theorem setQueue_inReset (a : Agent) (q : List Request) (s : State) :
    (setQueue a q s).inReset = s.inReset := by cases a <;> rfl
@[simp] theorem setQueue_inputs (a : Agent) (q : List Request) (s : State) :
    (setQueue a q s).inputs = s.inputs := by cases a <;> rfl
@[simp] theorem setQueue_response (a : Agent) (q : List Request) (s : State) :
    (setQueue a q s).response = s.response := by cases a <;> rfl

@[simp] theorem queueOf_setQueue (a : Agent) (q : List Request) (s : State) : queueOf a (setQueue a q s) = q := by
  cases a <;> rfl

/-! ### `setInputs` -/

@[simp] theorem setInputs_conf (is : List Input) (s : State) : (setInputs is s).conf = s.conf := rfl
@[simp] theorem setInputs_arg0 (is : List Input) (s : State) : (setInputs is s).arg0 = s.arg0 := rfl
@[simp] theorem setInputs_arg1 (is : List Input) (s : State) : (setInputs is s).arg1 = s.arg1 := rfl
@[simp] theorem setInputs_res0 (is : List Input) (s : State) : (setInputs is s).res0 = s.res0 := rfl
@[simp] theorem setInputs_res1 (is : List Input) (s : State) : (setInputs is s).res1 = s.res1 := rfl
@[simp] theorem setInputs_cstat (is : List Input) (s : State) : (setInputs is s).cstat = s.cstat := rfl
@[simp] theorem setInputs_event (is : List Input) (s : State) : (setInputs is s).event = s.event := rfl
@[simp] theorem setInputs_prof (is : List Input) (s : State) : (setInputs is s).prof = s.prof := rfl
@[simp] theorem setInputs_tableReady (is : List Input) (s : State) : (setInputs is s).tableReady = s.tableReady := rfl
@[simp] theorem setInputs_rateIndex (is : List Input) (s : State) : (setInputs is s).rateIndex = s.rateIndex := rfl
@[simp] theorem setInputs_cfg (is : List Input) (s : State) : (setInputs is s).cfg = s.cfg := rfl
@[simp] theorem setInputs_run (is : List Input) (s : State) : (setInputs is s).run = s.run := rfl
@[simp] theorem setInputs_capacity (is : List Input) (s : State) : (setInputs is s).capacity = s.capacity := rfl
@[simp] theorem setInputs_writeIndex (is : List Input) (s : State) : (setInputs is s).writeIndex = s.writeIndex := rfl
@[simp] theorem setInputs_readIndex (is : List Input) (s : State) : (setInputs is s).readIndex = s.readIndex := rfl
@[simp] theorem setInputs_count (is : List Input) (s : State) : (setInputs is s).count = s.count := rfl
@[simp] theorem setInputs_mode (is : List Input) (s : State) : (setInputs is s).mode = s.mode := rfl
@[simp] theorem setInputs_lastSample (is : List Input) (s : State) : (setInputs is s).lastSample = s.lastSample := rfl
@[simp] theorem setInputs_actPrescale (is : List Input) (s : State) :
    (setInputs is s).actPrescale = s.actPrescale := rfl
@[simp] theorem setInputs_actX (is : List Input) (s : State) : (setInputs is s).actX = s.actX := rfl
@[simp] theorem setInputs_actY (is : List Input) (s : State) : (setInputs is s).actY = s.actY := rfl
@[simp] theorem setInputs_ampEn (is : List Input) (s : State) : (setInputs is s).ampEn = s.ampEn := rfl
@[simp] theorem setInputs_storage (is : List Input) (s : State) : (setInputs is s).storage = s.storage := rfl
@[simp] theorem setInputs_txLog (is : List Input) (s : State) : (setInputs is s).txLog = s.txLog := rfl
@[simp] theorem setInputs_resetDraw (is : List Input) (s : State) : (setInputs is s).resetDraw = s.resetDraw := rfl
@[simp] theorem setInputs_inReset (is : List Input) (s : State) : (setInputs is s).inReset = s.inReset := rfl
@[simp] theorem setInputs_hostQueue (is : List Input) (s : State) : (setInputs is s).hostQueue = s.hostQueue := rfl
@[simp] theorem setInputs_producerQueue (is : List Input) (s : State) :
    (setInputs is s).producerQueue = s.producerQueue := rfl
@[simp] theorem setInputs_drainQueue (is : List Input) (s : State) : (setInputs is s).drainQueue = s.drainQueue := rfl
@[simp] theorem setInputs_inputs (is : List Input) (s : State) : (setInputs is s).inputs = is := rfl
@[simp] theorem setInputs_response (is : List Input) (s : State) : (setInputs is s).response = s.response := rfl

/-! ### `holdReset` -/

@[simp] theorem holdReset_conf (s : State) : (holdReset s).conf = s.conf := rfl
@[simp] theorem holdReset_arg0 (s : State) : (holdReset s).arg0 = s.arg0 := rfl
@[simp] theorem holdReset_arg1 (s : State) : (holdReset s).arg1 = s.arg1 := rfl
@[simp] theorem holdReset_res0 (s : State) : (holdReset s).res0 = s.res0 := rfl
@[simp] theorem holdReset_res1 (s : State) : (holdReset s).res1 = s.res1 := rfl
@[simp] theorem holdReset_cstat (s : State) : (holdReset s).cstat = s.cstat := rfl
@[simp] theorem holdReset_event (s : State) : (holdReset s).event = s.event := rfl
@[simp] theorem holdReset_prof (s : State) : (holdReset s).prof = s.prof := rfl
@[simp] theorem holdReset_tableReady (s : State) : (holdReset s).tableReady = s.tableReady := rfl
@[simp] theorem holdReset_rateIndex (s : State) : (holdReset s).rateIndex = s.rateIndex := rfl
@[simp] theorem holdReset_cfg (s : State) : (holdReset s).cfg = s.cfg := rfl
@[simp] theorem holdReset_run (s : State) : (holdReset s).run = s.run := rfl
@[simp] theorem holdReset_capacity (s : State) : (holdReset s).capacity = s.capacity := rfl
@[simp] theorem holdReset_writeIndex (s : State) : (holdReset s).writeIndex = s.writeIndex := rfl
@[simp] theorem holdReset_readIndex (s : State) : (holdReset s).readIndex = s.readIndex := rfl
@[simp] theorem holdReset_count (s : State) : (holdReset s).count = s.count := rfl
@[simp] theorem holdReset_mode (s : State) : (holdReset s).mode = s.mode := rfl
@[simp] theorem holdReset_lastSample (s : State) : (holdReset s).lastSample = s.lastSample := rfl
@[simp] theorem holdReset_actPrescale (s : State) : (holdReset s).actPrescale = s.actPrescale := rfl
@[simp] theorem holdReset_actX (s : State) : (holdReset s).actX = s.actX := rfl
@[simp] theorem holdReset_actY (s : State) : (holdReset s).actY = s.actY := rfl
@[simp] theorem holdReset_ampEn (s : State) : (holdReset s).ampEn = s.ampEn := rfl
@[simp] theorem holdReset_storage (s : State) : (holdReset s).storage = s.storage := rfl
@[simp] theorem holdReset_txLog (s : State) : (holdReset s).txLog = s.txLog := rfl
@[simp] theorem holdReset_resetDraw (s : State) : (holdReset s).resetDraw = s.resetDraw := rfl
@[simp] theorem holdReset_inReset (s : State) : (holdReset s).inReset = true := rfl
@[simp] theorem holdReset_hostQueue (s : State) : (holdReset s).hostQueue = s.hostQueue := rfl
@[simp] theorem holdReset_producerQueue (s : State) : (holdReset s).producerQueue = s.producerQueue := rfl
@[simp] theorem holdReset_drainQueue (s : State) : (holdReset s).drainQueue = s.drainQueue := rfl
@[simp] theorem holdReset_inputs (s : State) : (holdReset s).inputs = s.inputs := rfl
@[simp] theorem holdReset_response (s : State) : (holdReset s).response = s.response := rfl

@[simp] theorem queueOf_setInputs (a : Agent) (is : List Input) (s : State) :
    queueOf a (setInputs is s) = queueOf a s := by
  cases a <;> rfl

@[simp] theorem queueOf_respond (a : Agent) (r : Response) (s : State) : queueOf a (respond r s) = queueOf a s := by
  cases a <;> rfl

theorem queueOf_setQueue_ne {a b : Agent} (h : b ≠ a) (q : List Request) (s : State) :
    queueOf b (setQueue a q s) = queueOf b s := by
  cases a <;> cases b <;> first | rfl | exact absurd rfl h

/-! ### `stor` depends on the written bytes and the draw alone -/

theorem stor_congr {s t : State} (hs : t.storage = s.storage) (hd : t.resetDraw = s.resetDraw) (k : Nat) :
    stor t k = stor s k := by
  simp [stor, hs, hd]

@[simp] theorem stor_raise (e : Event) (s : State) (k : Nat) : stor (raise e s) k = stor s k := rfl
@[simp] theorem stor_complete (c : Completion) (s : State) (k : Nat) : stor (complete c s) k = stor s k := rfl
@[simp] theorem stor_push (v : Word) (s : State) (k : Nat) : stor (push v s) k = stor s k := rfl
@[simp] theorem stor_bufReset (s : State) (k : Nat) : stor (bufReset s) k = stor s k := rfl
@[simp] theorem stor_respond (r : Response) (s : State) (k : Nat) : stor (respond r s) k = stor s k := rfl

end Sys2Proof.Machine
end

