-- ==== Sys2Proof/Laws/Commands.lean ====
section
/-! SUPPORT. What each command and each shared operation can do, said once: a later proof cites these and unfolds none
of them. -/

namespace Sys2Proof.Machine

/-! ### The transmit log, the sample word -/

/-- The fetched sample is the little-endian word at the read index (R67, R172). -/
theorem sampleAt_eq (s : State) : sampleAt s = wordAt s s.readIndex.toNat := by
  show BitVec.ofNat 32 (memRead s s.readIndex.toNat 4) = _
  rw [memRead_four]
  rfl

/-! ### `SUBMIT` -/

/-- Everything `SUBMIT` can do (R152). -/
theorem submitPacket_cases {l : Nat} {s t : State} (h : submitPacket l s = .next t) :
    (s.capacity.toNat < s.count.toNat + l ∧ t = overrun s) ∨
    (s.count.toNat + l ≤ s.capacity.toNat ∧ s.writeIndex.toNat + l < s.capacity.toNat ∧
      t = acceptLinear (s.count.toNat + l) (s.writeIndex.toNat + l) s) ∨
    (s.count.toNat + l ≤ s.capacity.toNat ∧ s.capacity.toNat ≤ s.writeIndex.toNat + l ∧
      s.writeIndex.toNat + l ≤ s.conf.storageSize ∧
      t = acceptWrapped (s.count.toNat + l) (s.writeIndex.toNat + l) s) := by
  unfold submitPacket overruns wraps inStorage at h
  simp only [decide_eq_true_eq] at h
  split_ifs at h with h1 h2 h3
  · exact .inl ⟨h1, by simpa using h.symm⟩
  · exact .inr (.inr ⟨by omega, h2, by omega, by simpa using h.symm⟩)
  · exact .inr (.inl ⟨by omega, by omega, by simpa using h.symm⟩)

/-- `SUBMIT` of a packet that does not fit. -/
theorem submitPacket_overrun {l : Nat} {s : State} (h : s.capacity.toNat < s.count.toNat + l) :
    submitPacket l s = .next (overrun s) := by
  simp [submitPacket, overruns, h]

/-- `SUBMIT` of a packet that ends below the capacity. -/
theorem submitPacket_linear {l : Nat} {s : State} (h1 : s.count.toNat + l ≤ s.capacity.toNat)
    (h2 : s.writeIndex.toNat + l < s.capacity.toNat) :
    submitPacket l s = .next (acceptLinear (s.count.toNat + l) (s.writeIndex.toNat + l) s) := by
  have h3 : ¬s.capacity.toNat < s.count.toNat + l := by omega
  have h4 : ¬s.capacity.toNat ≤ s.writeIndex.toNat + l := by omega
  simp [submitPacket, overruns, wraps, h3, h4]

/-- `SUBMIT` of a packet that reaches the capacity. -/
theorem submitPacket_wrapped {l : Nat} {s : State} (h1 : s.count.toNat + l ≤ s.capacity.toNat)
    (h2 : s.capacity.toNat ≤ s.writeIndex.toNat + l) (h3 : s.writeIndex.toNat + l ≤ s.conf.storageSize) :
    submitPacket l s = .next (acceptWrapped (s.count.toNat + l) (s.writeIndex.toNat + l) s) := by
  have h4 : ¬s.capacity.toNat < s.count.toNat + l := by omega
  simp [submitPacket, overruns, wraps, inStorage, h2, h3, h4]

/-- The bytes after the tail copy (R154). -/
theorem stor_acceptWrapped {c w : Nat} {s : State} (h : w - s.capacity.toNat ≤ s.capacity.toNat) (k : Nat) :
    stor (acceptWrapped c w s) k =
      if k < w - s.capacity.toNat then stor s (s.capacity.toNat + k) else stor s k := by
  show Memory.byteAt s.resetDraw (copyTail s.resetDraw s.capacity.toNat 0 (w - s.capacity.toNat) s.storage) k = _
  rw [byteAt_copyTail _ _ _ (by omega)]
  simp [stor]

/-! ### `DRAIN` -/

/-- Everything a slot step can do (R172, R173). -/
theorem slotStep_cases {s t : State} (h : slotStep s = .next t) :
    (4 ≤ s.count.toNat ∧ s.capacity ≠ 0 ∧ s.readIndex.toNat + 4 ≤ s.conf.storageSize ∧ t = consumeSample s) ∨
    (s.count.toNat < 4 ∧ t = repeatSample s) := by
  unfold slotStep hasSample inStorage Config.sampleBytes at h
  simp only [decide_eq_true_eq] at h
  split_ifs at h with h1 h2 h3
  · exact .inl ⟨h1, h2, h3, by simpa using h.symm⟩
  · exact .inr ⟨by omega, by simpa using h.symm⟩

/-- A slot step consumes a sample when there is one (R172). -/
theorem slotStep_consume {s : State} (h1 : 4 ≤ s.count.toNat) (h2 : s.capacity ≠ 0)
    (h3 : s.readIndex.toNat + 4 ≤ s.conf.storageSize) : slotStep s = .next (consumeSample s) := by
  have h4 : ¬s.capacity = 0#16 := h2
  simp [slotStep, hasSample, inStorage, Config.sampleBytes, h1, h3, h4]

/-- A slot step repeats the last sample when there is none (R173). -/
theorem slotStep_repeat {s : State} (h : s.count.toNat < 4) : slotStep s = .next (repeatSample s) := by
  have : ¬4 ≤ s.count.toNat := by omega
  simp [slotStep, hasSample, Config.sampleBytes, this]

/-- The count after a consumed sample (R172). -/
theorem consumeSample_count {s : State} (h : 4 ≤ s.count.toNat) :
    (consumeSample s).count.toNat = s.count.toNat - 4 := by
  have := s.count.isLt
  simp [consumeSample, Config.sampleBytes]
  omega

/-- The read index after a consumed sample (R172). -/
theorem consumeSample_readIndex {s : State} (h : 0 < s.capacity.toNat) :
    (consumeSample s).readIndex.toNat = (s.readIndex.toNat + 4) % s.capacity.toNat := by
  have h1 := s.capacity.isLt
  have h2 := Nat.mod_lt (s.readIndex.toNat + 4) h
  simp [consumeSample, Config.sampleBytes]
  omega

/-- The sample a slot consumes is pushed and held (R172, R177). -/
theorem consumeSample_pushes (s : State) :
    (consumeSample s).lastSample = wordAt s s.readIndex.toNat ∧
    (consumeSample s).txLog = s.txLog ++ [wordAt s s.readIndex.toNat] :=
  ⟨sampleAt_eq s, by rw [← sampleAt_eq]; rfl⟩

/-- No slot step is refused. -/
theorem slotStep_not_refused (s : State) (r : Refusal) : slotStep s ≠ .refused r := by
  unfold slotStep
  split_ifs <;> simp

/-- One more slot: the first slot step, then the others. -/
theorem drainSlots_succ {n : Nat} {s t : State} :
    drainSlots (n + 1) s = .next t ↔ ∃ u, slotStep s = .next u ∧ drainSlots n u = .next t := by
  show (match slotStep s with
    | .next u => drainSlots n u
    | .fault r => .fault r
    | .refused r => .refused r) = _ ↔ _
  cases slotStep s <;> simp

/-- What any number of slot steps may change, and how many words they push (R171, R177). -/
theorem drainSlots_frame {n : Nat} {s t : State} (h : drainSlots n s = .next t) :
    t = { s with
      count := t.count, readIndex := t.readIndex, lastSample := t.lastSample, txLog := t.txLog, event := t.event } ∧
    (∃ ws : List Word, ws.length = n ∧ t.txLog = s.txLog ++ ws) ∧
    t.event &&& s.event = s.event := by
  induction n generalizing s with
  | zero =>
    obtain rfl : s = t := by simpa [drainSlots] using h
    exact ⟨rfl, ⟨[], rfl, by simp⟩, by simp⟩
  | succ n ih =>
    obtain ⟨u, hu, ht⟩ := drainSlots_succ.1 h
    obtain ⟨h1, ⟨ws, h2, h3⟩, h4⟩ := ih ht
    rcases slotStep_cases hu with ⟨-, -, -, rfl⟩ | ⟨-, rfl⟩
    · exact ⟨h1, ⟨sampleAt s :: ws, by simp [h2], by simpa [consumeSample] using h3⟩, h4⟩
    · refine ⟨h1, ⟨s.lastSample :: ws, by simp [h2], by simpa [repeatSample] using h3⟩, ?_⟩
      have hsub : (s.event ||| eventBit .bufferUnderrun) &&& s.event = s.event := by
        ext i hi
        simp
        tauto
      change t.event &&& (s.event ||| eventBit .bufferUnderrun) = s.event ||| eventBit .bufferUnderrun at h4
      calc t.event &&& s.event
          = t.event &&& ((s.event ||| eventBit .bufferUnderrun) &&& s.event) := by rw [hsub]
        _ = (t.event &&& (s.event ||| eventBit .bufferUnderrun)) &&& s.event := (BitVec.and_assoc _ _ _).symm
        _ = s.event := by rw [h4, hsub]

/-- Everything the hysteresis step can do: the four rows of R175. -/
theorem hysteresis_cases (s : State) :
    (s.mode = .normal ∧ 5 * s.capacity.toNat ≤ 8 * s.count.toNat ∧
      hysteresis s = { s with
        actX := (s.prof.get s.rateIndex).fastX, actY := (s.prof.get s.rateIndex).fastY, mode := .spedUp }) ∨
    (s.mode = .normal ∧ 8 * s.count.toNat < 5 * s.capacity.toNat ∧ hysteresis s = s) ∨
    (s.mode = .spedUp ∧ 8 * s.count.toNat < 3 * s.capacity.toNat ∧
      hysteresis s = { s with
        actX := (s.prof.get s.rateIndex).slowX, actY := (s.prof.get s.rateIndex).slowY, mode := .normal }) ∨
    (s.mode = .spedUp ∧ 3 * s.capacity.toNat ≤ 8 * s.count.toNat ∧ hysteresis s = s) := by
  cases hm : s.mode with
  | normal =>
    by_cases hh : 5 * s.capacity.toNat ≤ 8 * s.count.toNat
    · have : ¬8 * s.count.toNat < 3 * s.capacity.toNat := by omega
      refine .inl ⟨rfl, hh, ?_⟩
      simp [hysteresis, speedUp, slowDown, atHighWatermark, belowLowWatermark, hm, hh, this]
    · refine .inr (.inl ⟨rfl, by omega, ?_⟩)
      simp [hysteresis, speedUp, slowDown, atHighWatermark, hm, hh]
  | spedUp =>
    by_cases hl : 8 * s.count.toNat < 3 * s.capacity.toNat
    · refine .inr (.inr (.inl ⟨rfl, hl, ?_⟩))
      simp [hysteresis, speedUp, slowDown, belowLowWatermark, hm, hl]
    · refine .inr (.inr (.inr ⟨rfl, by omega, ?_⟩))
      simp [hysteresis, speedUp, slowDown, belowLowWatermark, hm, hl]

/-- What the hysteresis step may change (R174). -/
theorem hysteresis_frame (s : State) :
    hysteresis s = { s with
      mode := (hysteresis s).mode, actX := (hysteresis s).actX, actY := (hysteresis s).actY } := by
  rcases hysteresis_cases s with ⟨-, -, h⟩ | ⟨-, -, h⟩ | ⟨-, -, h⟩ | ⟨-, -, h⟩ <;> rw [h]

/-- `DRAIN` while streaming: the slots, then the hysteresis step (R171). -/
theorem drainPlaying_next {n : Nat} {s t : State} :
    drainPlaying n s = .next t ↔ ∃ u, drainSlots n s = .next u ∧ t = hysteresis u := by
  unfold drainPlaying
  cases drainSlots n s <;> simp [eq_comm]

/-- Everything `DRAIN` can do (R171, R176). -/
theorem execDrain_cases {n : BitVec 4} {s t : State} (h : execDrain n s = .next t) :
    (s.run = false ∧ t = s) ∨
    (s.run = true ∧ ∃ u, drainSlots n.toNat s = .next u ∧ t = hysteresis u) := by
  unfold execDrain at h
  split_ifs at h with hr
  · exact .inr ⟨hr, drainPlaying_next.1 h⟩
  · exact .inl ⟨by simpa using hr, by simpa using h.symm⟩

/-! ### `SET_RATE` -/

/-- The index of a table rate, and of no other value (R191). -/
theorem rateIndexOf_eq_some (v : Nat) (i : Fin 7) : rateIndexOf v = some i ↔ v = Config.rate i := by
  constructor
  · intro h
    unfold rateIndexOf at h
    split_ifs at h <;> simp at h <;> subst h <;> assumption
  · rintro rfl
    fin_cases i <;> rfl

/-- When a rate is accepted (R191). -/
theorem acceptedRate_eq_some (v : Nat) (s : State) (i : Fin 7) :
    acceptedRate v s = some i ↔ v = Config.rate i ∧ (s.prof.get i).valid = true := by
  have hmax : ∀ j : Fin 7, Config.rate j ≤ 48000 := by decide
  unfold acceptedRate Config.maxRate
  constructor
  · intro h
    split_ifs at h with h1
    cases hv : rateIndexOf v with
    | none => simp [hv] at h
    | some j =>
      simp only [hv] at h
      split_ifs at h with h2
      obtain rfl : j = i := by simpa using h
      exact ⟨(rateIndexOf_eq_some v j).1 hv, h2⟩
  · rintro ⟨rfl, h2⟩
    have h1 : ¬48000 < Config.rate i := by have := hmax i; omega
    rw [if_neg h1, (rateIndexOf_eq_some _ i).2 rfl]
    simp [h2]

/-- When a rate is rejected (R191). -/
theorem acceptedRate_eq_none (v : Nat) (s : State) :
    acceptedRate v s = none ↔ ∀ i, v = Config.rate i → (s.prof.get i).valid = false := by
  constructor
  · intro h i hi
    cases hv : (s.prof.get i).valid with
    | false => rfl
    | true => simp [(acceptedRate_eq_some v s i).2 ⟨hi, hv⟩] at h
  · intro h
    cases ha : acceptedRate v s with
    | none => rfl
    | some i =>
      obtain ⟨h1, h2⟩ := (acceptedRate_eq_some v s i).1 ha
      simp [h i h1] at h2

/-- The rate operand as a number (R97). -/
theorem rateOperand_eq (fmt : RateFormat) (s : State) :
    rateOperand fmt s = match fmt with | .bits24 => s.arg0.toNat % 2 ^ 24 | .bits32 => s.arg0.toNat := by
  cases fmt <;> simp [rateOperand]

/-! ### `INIT` and `SOLVE` -/

/-- The solver's report changes the results, the completion code and the events alone (R140). -/
theorem reportSolution_frame (r : Option Solution) (s : State) :
    reportSolution r s = { s with
      res0 := packA (profileOf r), res1 := packB (profileOf r), cstat := (reportSolution r s).cstat
      event := (reportSolution r s).event } := by
  cases r <;> rfl

/-- The accepted `INIT` changes the table, the completion code and the events alone (R141). -/
theorem installTable_frame (p : Vector Profile 7) (s : State) :
    installTable p s = { s with
      prof := p, tableReady := true, cstat := (installTable p s).cstat, event := (installTable p s).event } := by
  unfold installTable
  split_ifs <;> rfl

theorem allValid_iff (p : Vector Profile 7) : allValid p = true ↔ ∀ i : Fin 7, (p.get i).valid = true := by
  simp only [allValid, Bool.and_eq_true]
  constructor
  · rintro ⟨⟨⟨⟨⟨⟨h0, h1⟩, h2⟩, h3⟩, h4⟩, h5⟩, h6⟩ i
    fin_cases i <;> assumption
  · intro h
    exact ⟨⟨⟨⟨⟨⟨h 0, h 1⟩, h 2⟩, h 3⟩, h 4⟩, h 5⟩, h 6⟩

/-! ### Every command -/

/-- No command touches the configuration, the draw of the free bytes or the agents' side of the port. -/
theorem exec_port_frame {i : Instr} {s t : State} (h : exec i s = .next t) :
    t.conf = s.conf ∧ t.resetDraw = s.resetDraw ∧ t.inReset = s.inReset ∧ t.hostQueue = s.hostQueue ∧
    t.producerQueue = s.producerQueue ∧ t.drainQueue = s.drainQueue ∧ t.inputs = s.inputs ∧
    t.response = s.response := by
  cases i with
  | init =>
    obtain rfl := Host.Outcome.next.inj h.symm
    split_ifs
    · simp
    · rw [installTable_frame]
      simp
  | solve =>
    obtain rfl := Host.Outcome.next.inj h.symm
    rw [reportSolution_frame]
    simp
  | setRate fmt =>
    obtain rfl := Host.Outcome.next.inj h.symm
    cases acceptedRate (rateOperand fmt s) s <;> simp [rejectRate, reinit]
  | getRate =>
    obtain rfl := Host.Outcome.next.inj h.symm
    simp
  | streamStart =>
    obtain rfl := Host.Outcome.next.inj h.symm
    split_ifs <;> simp
  | streamStop =>
    obtain rfl := Host.Outcome.next.inj h.symm
    simp
  | bufReset =>
    obtain rfl := Host.Outcome.next.inj h.symm
    simp
  | submit l =>
    rcases submitPacket_cases h with ⟨-, rfl⟩ | ⟨-, -, rfl⟩ | ⟨-, -, -, rfl⟩ <;>
      simp [overrun, acceptLinear, acceptWrapped]
  | drain n =>
    rcases execDrain_cases h with ⟨-, rfl⟩ | ⟨-, u, hu, rfl⟩
    · simp
    · rw [hysteresis_frame, (drainSlots_frame hu).1]
      simp

end Sys2Proof.Machine
end

