-- ==== Sys2Proof/Laws/Decode.lean ====
section
/-! SUPPORT. The fields of a command word as numbers, and when its reserved bits are 0. With `c` a word, `op` is
`c.toNat % 256`, and a format's reserved bits are 0 exactly when `c` is small enough. -/

namespace Sys2Proof

theorem and_high_bits (c : Word) (k : Nat) : c &&& (BitVec.allOnes 32 <<< k) = (c >>> k) <<< k := by
  ext i hi
  simp only [BitVec.getElem_and, BitVec.getElem_shiftLeft, BitVec.getElem_allOnes]
  by_cases h : i < k
  · simp [h]
  · have : k + (i - k) = i := by omega
    simp [h, this, BitVec.getLsbD_eq_getElem hi]

/-- The bits of a word from `k` up are all 0 exactly when the word is below `2^k`. -/
theorem and_high_eq_zero (c : Word) (k : Nat) : c &&& (BitVec.allOnes 32 <<< k) = 0#32 ↔ c.toNat < 2 ^ k := by
  rw [and_high_bits]
  have hpos : 0 < 2 ^ k := Nat.two_pow_pos k
  have hle : c.toNat / 2 ^ k * 2 ^ k ≤ c.toNat := Nat.div_mul_le_self _ _
  have hlt : c.toNat < 2 ^ 32 := c.isLt
  have hval : ((c >>> k) <<< k).toNat = c.toNat / 2 ^ k * 2 ^ k := by
    rw [BitVec.toNat_shiftLeft, BitVec.toNat_ushiftRight, Nat.shiftRight_eq_div_pow, Nat.shiftLeft_eq,
      Nat.mod_eq_of_lt (by omega)]
  rw [← BitVec.toNat_inj, hval]
  simp only [BitVec.toNat_ofNat, Nat.zero_mod, Nat.mul_eq_zero]
  constructor
  · rintro (h | h)
    · exact (Nat.div_eq_zero_iff_lt hpos).1 h
    · omega
  · intro h
    exact .inl (Nat.div_eq_of_lt h)

/-- The number of low bits a format uses. -/
def usedBits : Format → Nat
  | .Z => 8
  | .F => 9
  | .L => 24
  | .N => 12

/-- A word keeps its format's reserved bits 0 exactly when it is below `2 ^ usedBits` (R92 to R95). -/
theorem reserved_eq_zero (f : Format) (c : Word) : c &&& reservedBits f = 0#32 ↔ c.toNat < 2 ^ usedBits f := by
  cases f
  · exact and_high_eq_zero c 8
  · exact and_high_eq_zero c 9
  · exact and_high_eq_zero c 24
  · exact and_high_eq_zero c 12

@[simp] theorem opField_toNat (c : Word) : (opField c).toNat = c.toNat % 256 := by
  simp [opField]

@[simp] theorem lenField_toNat (c : Word) : (lenField c).toNat = c.toNat / 256 % 65536 := by
  simp [lenField, Nat.shiftRight_eq_div_pow]

@[simp] theorem slotField_toNat (c : Word) : (slotField c).toNat = c.toNat / 256 % 16 := by
  simp [slotField, Nat.shiftRight_eq_div_pow]

/-- The bit `fmt` as a number. -/
theorem fmtField_eq (c : Word) : fmtField c = if c.toNat / 256 % 2 = 1 then .bits32 else .bits24 := by
  simp [fmtField, BitVec.getLsbD, Nat.testBit_eq_decide_div_mod_eq]

/-- The operation code of each operation (R96). -/
def opCode : Op → Nat
  | .init => 0x01
  | .solve => 0x02
  | .setRate => 0x03
  | .getRate => 0x04
  | .streamStart => 0x05
  | .streamStop => 0x06
  | .bufReset => 0x07
  | .submit => 0x08
  | .drain => 0x09

theorem opOf_eq_some (b : BitVec 8) (o : Op) : opOf b = some o ↔ b.toNat = opCode o := by
  cases o <;> revert b <;> decide +kernel

theorem opOf_eq_none (b : BitVec 8) : opOf b = none ↔ b.toNat = 0 ∨ 0x0A ≤ b.toNat := by
  revert b
  decide +kernel

/-- Everything a decoded word can be: its operation code, its reserved bits, its slot count and its command (R103). -/
theorem decode_eq_command (depth : Nat) (c : Word) (i : Instr) :
    decode depth c = .command i ↔
      ∃ o, c.toNat % 256 = opCode o ∧ c.toNat < 2 ^ usedBits (formatOf o) ∧
        ¬(o = .drain ∧ depth < c.toNat / 256 % 16) ∧ i = assemble o c := by
  unfold decode
  cases ho : opOf (opField c) with
  | none =>
    simp only [reduceCtorEq, false_iff, not_exists]
    rintro o ⟨h, -⟩
    have := (opOf_eq_some (opField c) o).2 (by simpa using h)
    simp [this] at ho
  | some o =>
    have hcode : c.toNat % 256 = opCode o := by simpa using (opOf_eq_some (opField c) o).1 ho
    have huniq : ∀ o', c.toNat % 256 = opCode o' → o' = o := fun o' h => by
      have := (opOf_eq_some (opField c) o').2 (by simpa using h)
      simpa [this] using ho
    simp only [slotField_toNat]
    constructor
    · intro h
      split_ifs at h with h1 h2
      · rw [not_not, reserved_eq_zero] at h1
        exact ⟨o, hcode, h1, h2, by simpa using h.symm⟩
    · rintro ⟨o', h1, h2, h3, rfl⟩
      obtain rfl := huniq o' h1
      rw [if_neg (by rw [not_not, reserved_eq_zero]; exact h2), if_neg h3]

/-- Everything a rejected word can be. -/
theorem decode_eq_illegal (depth : Nat) (c : Word) :
    (∃ why, decode depth c = .illegal why) ↔ ∀ i, decode depth c ≠ .command i := by
  cases decode depth c <;> simp

/-- The word of each command as a number (R101). -/
theorem encode_toNat (i : Instr) :
    (encode i).toNat =
      match i with
      | .init => 1
      | .solve => 2
      | .setRate fmt => 3 + fmtBit fmt * 256
      | .getRate => 4
      | .streamStart => 5
      | .streamStop => 6
      | .bufReset => 7
      | .submit len => 8 + len.toNat * 256
      | .drain n => 9 + n.toNat * 256 := by
  cases i with
  | setRate fmt => cases fmt <;> rfl
  | submit len =>
    have := len.isLt
    simp only [encode, BitVec.toNat_ofNat]
    omega
  | drain n =>
    have := n.isLt
    simp only [encode, BitVec.toNat_ofNat]
    omega
  | _ => rfl

end Sys2Proof
end

