-- ==== Sys2Proof/Laws/PerInstr.lean ====
section
/-! SUPPORT. A fact about every command as syntax, one lemma per constructor: a command's word has its row's pattern
under its row's mask (R96 of spec/30_encoding.md). -/

namespace Sys2Proof.Laws

/-- The word of a command matches the command's row of the opcode table. -/
def EncodeMatchesRow.Statement (i : Instr) : Prop := encode i &&& (rowOf i).mask = (rowOf i).pattern

theorem EncodeMatchesRow.init : EncodeMatchesRow.Statement .init := rfl

theorem EncodeMatchesRow.solve : EncodeMatchesRow.Statement .solve := rfl

theorem EncodeMatchesRow.setRate (fmt : RateFormat) : EncodeMatchesRow.Statement (.setRate fmt) := by
  cases fmt <;> rfl

theorem EncodeMatchesRow.getRate : EncodeMatchesRow.Statement .getRate := rfl

theorem EncodeMatchesRow.streamStart : EncodeMatchesRow.Statement .streamStart := rfl

theorem EncodeMatchesRow.streamStop : EncodeMatchesRow.Statement .streamStop := rfl

theorem EncodeMatchesRow.bufReset : EncodeMatchesRow.Statement .bufReset := rfl

theorem EncodeMatchesRow.submit (len : BitVec 16) : EncodeMatchesRow.Statement (.submit len) := by
  have hword : 0x08 + len.toNat * 2 ^ 8 = 2 ^ 8 * len.toNat + 8 := by omega
  show BitVec.ofNat 32 (0x08 + len.toNat * 2 ^ 8) &&& 0xFF0000FF#32 = 0x00000008#32
  ext k hk
  rw [hword, BitVec.getElem_and, ← BitVec.getLsbD_eq_getElem, BitVec.getLsbD_ofNat,
    Nat.testBit_two_pow_mul_add _ (by omega)]
  have htop : ∀ j, 16 ≤ j → len.toNat.testBit j = false := fun j hj => BitVec.getLsbD_of_ge len j hj
  (interval_cases k <;> simp [htop]) <;> rfl

theorem EncodeMatchesRow.drain (n : BitVec 4) : EncodeMatchesRow.Statement (.drain n) := by
  revert n
  unfold EncodeMatchesRow.Statement
  decide

end Sys2Proof.Laws
end

