-- ==== Sys2Proof/Laws/Step.lean ====
section
/-! SUPPORT. The port and the step, said once: what each request does, and everything a step can do. -/

namespace Sys2Proof.Machine

/-! ### The register map -/

theorem regAt_eq (a : Word) (h : a.toNat % 4 = 0) : regAt a = regOfWord (a.toNat / 4) := by
  simp [regAt, h]

/-- No register lies above 0x74 (R36, R49). -/
theorem regOfWord_eq_none {w : Nat} (h : 29 < w) : regOfWord w = none := by
  obtain ⟨k, rfl⟩ : ∃ k, w = k + 30 := ⟨w - 30, by omega⟩
  rfl

/-- Every word offset up to 0x74 is a register (R36). -/
theorem regOfWord_isSome {w : Nat} (h : w ≤ 29) : (regOfWord w).isSome = true := by
  interval_cases w <;> rfl

/-- The 32-bit requests that are no bus error (R62, R68). -/
theorem regAt_eq_none (a : Word) : regAt a = none ↔ a.toNat % 4 ≠ 0 ∨ 0x74 < a.toNat := by
  by_cases h : a.toNat % 4 = 0
  · rw [regAt_eq a h]
    by_cases h2 : 29 < a.toNat / 4
    · simp only [regOfWord_eq_none h2, true_iff]
      omega
    · have := regOfWord_isSome (show a.toNat / 4 ≤ 29 by omega)
      constructor
      · intro hn
        simp [hn] at this
      · omega
  · simp [regAt, h]

/-- The window (R60, R64). -/
theorem storageOffset_eq_some (s : State) (a : Word) (k : Nat) :
    storageOffset s a = some k ↔ a.toNat = s.conf.storageBase + k ∧ k < s.conf.storageSize := by
  unfold storageOffset
  split_ifs with h
  · simp only [Option.some.injEq]
    omega
  · simp only [false_iff]
    omega

theorem storageOffset_eq_none (s : State) (a : Word) :
    storageOffset s a = none ↔ a.toNat < s.conf.storageBase ∨ s.conf.storageBase + s.conf.storageSize ≤ a.toNat := by
  unfold storageOffset
  split_ifs with h
  · simp only [false_iff]
    omega
  · simp only [true_iff]
    omega

/-- `BusWrite8` in the window writes the byte, `BusRead8` returns it (R64, R65). -/
theorem stor_storWrite (k j : Nat) (b : Byte) (s : State) :
    stor (storWrite k b s) j = if j = k then b else stor s j := byteAt_put s.resetDraw k j b s.storage

/-! ### Commands at the port -/

theorem issueCommand_command {c : Word} {s : State} {i : Instr} (h : decode s.conf.fifoDepth c = .command i) :
    issueCommand c s = exec i s := by
  simp [issueCommand, h]

/-- Everything a word written to `CMD` can do (R98, R103). -/
theorem issueCommand_cases {c : Word} {s t : State} (h : issueCommand c s = .next t) :
    (∃ i, decode s.conf.fifoDepth c = .command i ∧ exec i s = .next t) ∨ t = raise .illegalCommand s := by
  unfold issueCommand at h
  cases hd : decode s.conf.fifoDepth c with
  | command i => exact .inl ⟨i, rfl, by simpa [hd] using h⟩
  | illegal w => exact .inr (by simpa [hd] using h.symm)

/-- Everything a request can do (R62 to R66). -/
theorem perform_cases {r : Request} {s t : State} (h : perform r s = .next t) :
    (∃ v, t = respond v s) ∨ (∃ v, t = busError v s) ∨ (∃ v, t = { respond .written s with arg0 := v }) ∨
    (∃ v, t = { respond .written s with arg1 := v }) ∨ (∃ v, t = clearEvents v (respond .written s)) ∨
    (∃ k v, k < s.conf.storageSize ∧ t = storWrite k v (respond .written s)) ∨
    (∃ v, r = .write32 0x00#32 v ∧ issueCommand v (respond .written s) = .next t) := by
  cases r with
  | read32 a =>
    obtain rfl : t = busRead a s := by simpa [perform] using h.symm
    unfold busRead
    cases regAt a with
    | some r => exact .inl ⟨_, rfl⟩
    | none => exact .inr (.inl ⟨_, rfl⟩)
  | read8 a =>
    obtain rfl : t = busRead8 a s := by simpa [perform] using h.symm
    unfold busRead8
    cases storageOffset s a with
    | some k => exact .inl ⟨_, rfl⟩
    | none => exact .inr (.inl ⟨_, rfl⟩)
  | write8 a v =>
    obtain rfl : t = busWrite8 a v s := by simpa [perform] using h.symm
    unfold busWrite8
    cases hk : storageOffset s a with
    | some k => exact .inr (.inr (.inr (.inr (.inr (.inl ⟨k, v, ((storageOffset_eq_some s a k).1 hk).2, rfl⟩)))))
    | none => exact .inr (.inl ⟨_, rfl⟩)
  | write32 a v =>
    have h' : busWrite a v s = .next t := h
    unfold busWrite at h'
    cases hr : regAt a with
    | none => exact .inr (.inl ⟨_, by simpa [hr] using h'.symm⟩)
    | some g =>
      cases g with
      | cmd =>
        refine .inr (.inr (.inr (.inr (.inr (.inr ⟨v, ?_, by simpa [hr] using h'⟩)))))
        have hz : a = 0#32 := by
          by_cases hal : a.toNat % 4 = 0
          · rw [regAt_eq a hal] at hr
            have hle : a.toNat / 4 ≤ 29 := by
              by_contra hgt
              simp [regOfWord_eq_none (show 29 < a.toNat / 4 by omega)] at hr
            have : a.toNat / 4 = 0 := by
              generalize a.toNat / 4 = w at hr hle
              interval_cases w <;> simp [regOfWord] at hr ⊢
            exact BitVec.eq_of_toNat_eq (by simp; omega)
          · simp [regAt, hal] at hr
        rw [hz]
      | arg0 => exact .inr (.inr (.inl ⟨v, by simpa [hr, regWrite] using h'.symm⟩))
      | arg1 => exact .inr (.inr (.inr (.inl ⟨v.setWidth 16, by simpa [hr, regWrite] using h'.symm⟩)))
      | event => exact .inr (.inr (.inr (.inr (.inl ⟨v, by simpa [hr, regWrite] using h'.symm⟩))))
      | _ => exact .inl ⟨.written, by simpa [hr, regWrite] using h'.symm⟩

/-- A write of `CMD` (R37, R63). -/
theorem perform_cmd (c : Word) (s : State) : perform (.write32 0x00#32 c) s = issueCommand c (respond .written s) := rfl

/-! ### The step -/

theorem step_idle {s : State} (h : s.inputs = []) : step s = .next s := by
  unfold step stepBlock
  rw [h]

theorem step_cons {s : State} {i : Input} {rest : List Input} (h : s.inputs = i :: rest) :
    step s = acceptInput i (setInputs rest s) := by
  unfold step stepBlock
  rw [h]

/-- The step that takes a request (R81). -/
theorem step_take {s : State} {a : Agent} {rest : List Input} {r : Request} {q : List Request}
    (hi : s.inputs = .take a :: rest) (hr : s.inReset = false) (hq : queueOf a s = r :: q) :
    step s = perform r (setQueue a q (setInputs rest s)) := by
  rw [step_cons hi]
  unfold acceptInput
  simp only [setInputs_inReset, hr, Bool.false_eq_true, if_false]
  unfold takeRequest
  rw [queueOf_setInputs, hq]

/-- Everything a step can do. -/
theorem step_cases {s t : State} (h : step s = .next t) :
    (s.inputs = [] ∧ t = s) ∨
    ∃ rest, (t = setInputs rest s) ∨ (t = holdReset (setInputs rest s)) ∨
      (s.inReset = true ∧ t = resetBlock (setInputs rest s)) ∨
      ∃ a r q, s.inputs = .take a :: rest ∧ s.inReset = false ∧ queueOf a s = r :: q ∧
        perform r (setQueue a q (setInputs rest s)) = .next t := by
  cases hi : s.inputs with
  | nil => exact .inl ⟨rfl, by simpa [step_idle hi] using h.symm⟩
  | cons i rest =>
    refine .inr ⟨rest, ?_⟩
    rw [step_cons hi] at h
    cases i with
    | assertReset => exact .inr (.inl (by simpa [acceptInput] using h.symm))
    | releaseReset =>
      unfold acceptInput at h
      cases hr : s.inReset with
      | true => exact .inr (.inr (.inl ⟨rfl, by simpa [hr] using h.symm⟩))
      | false => exact .inl (by simpa [hr] using h.symm)
    | take a =>
      cases hr : s.inReset with
      | true => exact .inl (by simpa [acceptInput, hr] using h.symm)
      | false =>
        cases hq : queueOf a s with
        | nil => exact .inl (by simpa [acceptInput, hr, takeRequest, hq] using h.symm)
        | cons r q =>
          refine .inr (.inr (.inr ⟨a, r, q, rfl, rfl, hq, ?_⟩))
          rw [← step_take hi hr hq, step_cons hi]
          exact h

end Sys2Proof.Machine
end

