-- ==== Sys2Proof/Tests/Slice0.lean ====
section
/-! SUPPORT. The model's own tests, their expected results from spec/95_test_vectors.md or by hand from a rule, and for
every statement with hypotheses a concrete state and operands that meet them. -/

namespace Sys2Proof.Tests

open Sys2Proof.Machine

-- One theorem at a time: elaborated side by side, each waits in a thread of its own.
set_option Elab.async false

/-! ### Small states -/

/-- The configuration of spec/95_test_vectors.md section 0, with the reference clock a vector names. -/
def config (hz : Nat) (h : 1 ≤ hz ∧ hz < 2 ^ 32) : Config := ⟨Params.withDefaults hz 6, Params.withDefaults_legal 6 h⟩

def at25MHz : Config := config 25000000 (by decide)

/-- The reset state. -/
def fresh : State := State.resetOf at25MHz 0

/-- The reset state with operands. -/
def args (c : Config) (a0 : Word) (a1 : Half) : State := { State.resetOf c 0 with arg0 := a0, arg1 := a1 }

/-- The table of vector V-S1. -/
def table25MHz : Vector Profile 7 :=
  #v[⟨true, 63, 116, 177, 135, 206⟩, ⟨true, 63, 28, 31, 205, 227⟩, ⟨true, 47, 58, 59, 231, 235⟩,
    ⟨true, 34, 244, 247, 81, 82⟩, ⟨true, 23, 58, 59, 231, 235⟩, ⟨true, 16, 214, 223, 95, 99⟩,
    ⟨true, 15, 58, 59, 231, 235⟩]

/-- Streaming at 8000 Hz with a capacity of 640, the buffer at `(w, r, n)`, in NORMAL mode. -/
def playing (w r n : Half) : State :=
  { fresh with
    prof := table25MHz, tableReady := true, rateIndex := 0, cfg := true, run := true, ampEn := true, capacity := 640
    writeIndex := w, readIndex := r, count := n, actPrescale := 63, actX := 135, actY := 206 }

/-- The same in SPED_UP mode. -/
def fast (w r n : Half) : State := { playing w r n with mode := .spedUp, actX := 116, actY := 177 }

/-- A request of an agent that is next at the port. -/
def asking (a : Agent) (r : Request) (s : State) : State := setQueue a [r] (setInputs [.take a] s)

/-- The step went on to a state of which `p` holds. -/
def goesTo (o : Host.Outcome State Fault Refusal) (p : State → Bool) : Bool :=
  match o with
  | .next t => p t
  | .fault _ => false
  | .refused _ => false

theorem completes_of_goesTo {o : Host.Outcome State Fault Refusal} {p : State → Bool} (h : goesTo o p = true) :
    ∃ t, o = .next t := by
  cases o with
  | next t => exact ⟨t, rfl⟩
  | fault r => cases h
  | refused r => cases h

/-! ### Decoding and encoding (vectors V-E1 and V-E2) -/

theorem test_wellFormed_refuses_nine_slots : (Instr.drain 9).wellFormed 8 = false := by decide

theorem test_wellFormed_admits_eight_slots : (Instr.drain 8).wellFormed 8 = true := by decide

theorem test_decode_init : decode 8 0x00000001#32 = .command .init := by decide

theorem test_decode_solve : decode 8 0x00000002#32 = .command .solve := by decide

theorem test_decode_setRate : decode 8 0x00000003#32 = .command (.setRate .bits24) ∧
    decode 8 0x00000103#32 = .command (.setRate .bits32) := by decide

theorem test_decode_getRate : decode 8 0x00000004#32 = .command .getRate := by decide

theorem test_decode_streamStart : decode 8 0x00000005#32 = .command .streamStart := by decide

theorem test_decode_streamStop : decode 8 0x00000006#32 = .command .streamStop := by decide

theorem test_decode_bufReset : decode 8 0x00000007#32 = .command .bufReset := by decide

theorem test_decode_submit : decode 8 0x00003A08#32 = .command (.submit 58) ∧
    decode 8 0x00FFFF08#32 = .command (.submit 65535) := by decide

theorem test_decode_drain : decode 8 0x00000009#32 = .command (.drain 0) ∧
    decode 8 0x00000809#32 = .command (.drain 8) := by decide

theorem test_decode_illegal_op :
    ([0x00000000#32, 0x0000000A#32, 0x000000FF#32, 0xFFFFFFFF#32].all fun c =>
      decode 8 c = .illegal .unknownOp) = true := by decide

theorem test_decode_illegal_reserved :
    ([0x00000101#32, 0x80000002#32, 0x00000203#32, 0x00010004#32, 0x01000008#32, 0x00001009#32].all fun c =>
      decode 8 c = .illegal .reservedBit) = true := by decide

theorem test_decode_illegal_slots : decode 8 0x00000909#32 = .illegal .tooManySlots ∧
    decode 8 0x00000F09#32 = .illegal .tooManySlots ∧ decode 15 0x00000F09#32 = .command (.drain 15) := by decide

theorem test_encode_words : encode (.submit 300) = 0x00012C08#32 ∧ encode (.drain 2) = 0x00000209#32 ∧
    encode (.setRate .bits32) = 0x00000103#32 := by decide

/-- No two rows of the opcode table share a word: their patterns differ where both masks look. -/
theorem test_rows_do_not_overlap :
    ([Instr.init, .solve, .setRate .bits24, .getRate, .streamStart, .streamStop, .bufReset, .submit 0, .drain 0].map
      rowOf).Pairwise fun a b => a.pattern &&& (a.mask &&& b.mask) ≠ b.pattern &&& (a.mask &&& b.mask) := by decide

/-! ### The port (vectors V-B1 to V-B6) -/

theorem test_reset_registers : regRead fresh .status = 0x60#32 ∧ regRead fresh .nextWr = 0x1000#32 ∧
    regRead fresh .refClk = 25000000#32 := by decide +kernel

theorem test_reset_memory_wf : Memory.wf State.reset.storage = true := rfl

theorem test_arg1_keeps_its_low_half : goesTo (perform (.write32 0x08#32 0xFFFF1002#32) fresh)
    (fun t => regRead t .arg1 = 0x1002#32) = true := by decide +kernel

theorem test_misaligned_write_issues_nothing : goesTo (perform (.write32 0x02#32 0x00000001#32) fresh)
    (fun t => t.event = 0b100000#6 ∧ t.tableReady = false ∧ t.response = .writeError) = true := by decide +kernel

theorem test_window_byte : goesTo (perform (.write8 0x1000#32 0xAB#8) fresh)
    (fun t => goesTo (perform (.read8 0x1000#32) t) fun u => u.response = .byte 0xAB) = true := by decide +kernel

theorem test_window_edges : storageOffset fresh 0x0FFF#32 = none ∧ storageOffset fresh 0x2DFF#32 = some 7679 ∧
    storageOffset fresh 0x2E00#32 = none := by decide +kernel

theorem test_event_clear : goesTo (perform (.write32 0x18#32 0x20#32) { fresh with event := 0x24#6 })
    (fun t => t.event = 0x04#6) = true := by decide +kernel

theorem test_illegal_word : goesTo (issueCommand 0x0000000A#32 { playing 40 0 40 with cstat := .rateUnsupported })
    (fun t => t.event = 0x10#6 ∧ t.cstat = .rateUnsupported ∧ t.count = 40) = true := by decide +kernel

/-- The words of `placeCommand` reach `exec` in the very next step, from the machine's own reset state. -/
theorem test_withFetchWord_runs :
    (∃ t, step (State.reset.withFetchWord 32 0x00000007) = .next t ∧ t.response = .written) ∧
    decodeTableWord 32 0x00000007 = some .bufReset := ⟨⟨_, rfl, rfl⟩, by decide⟩

/-! ### The solver (vectors V-S1 to V-S14) -/

theorem test_solve_V_S6 : solve 25000000 22050 2 16 = some ⟨34, 244, 247, 81, 82⟩ := by decide +kernel

theorem test_solve_no_round_down : solve 12000000 11025 2 16 = some ⟨33, 1, 1, 254, 255⟩ := by decide +kernel

theorem test_solve_direct_numerator : solve 24576000 8000 2 16 = some ⟨63, 3, 3, 169, 254⟩ := by decide +kernel

theorem test_solve_no_round_up : solve 2 1 1 1 = some ⟨0, 128, 255, 127, 254⟩ := by decide +kernel

theorem test_solve_failure_boundary : solve 1536000 48000 2 16 = none ∧
    solve 1536001 48000 2 16 = some ⟨0, 1, 1, 254, 255⟩ := by decide +kernel

theorem test_solve_forced_numerator : solve 100000 1 1 1 = some ⟨63, 1, 255, 1, 1⟩ := by decide +kernel

theorem test_execSolve : goesTo (exec .solve (args at25MHz 22050 0x1002))
    (fun t => t.res0 = 0x8022F4F7#32 ∧ t.res1 = 0x00005152#32 ∧ t.cstat = .ok ∧ t.event = 0) = true := by decide +kernel

theorem test_execSolve_fails : goesTo (exec .solve (args (config 1000000 (by decide)) 48000 0x1002))
    (fun t => t.res0 = 0 ∧ t.res1 = 0 ∧ t.cstat = .noValidDivider ∧ t.event = 1) = true := by decide +kernel

theorem test_execInit : goesTo (exec .init fresh)
    (fun t => t.prof = table25MHz ∧ t.cstat = .ok ∧ regRead t .status = 0x7F68#32) = true := by decide +kernel

theorem test_execInit_partial : goesTo (exec .init (State.resetOf (config 1200000 (by decide)) 0))
    (fun t => regRead t .status = 0x1F68#32 ∧ t.cstat = .noValidDivider ∧ t.event = 1 ∧
      regRead t (.profA 4) = 0x8000414B#32 ∧ regRead t (.profB 5) = 0) = true := by decide +kernel

/-! ### Rate and stream control (vectors V-C1 to V-C9) -/

theorem test_execSetRate_bits24 : goesTo (exec (.setRate .bits24) { playing 60 96 604 with arg0 := 0x0100AC44 })
    (fun t => t.rateIndex = 5 ∧ t.capacity = 3528 ∧ regRead t .activeDiv = 0x00105F63#32 ∧ t.run = true ∧
      t.count = 0) = true := by decide +kernel

theorem test_execSetRate_bits32 : goesTo (exec (.setRate .bits32) { playing 60 96 604 with arg0 := 0x0100AC44 })
    (fun t => t.cstat = .rateUnsupported ∧ t.event = 2 ∧ t.rateIndex = 0 ∧ t.count = 604) = true := by decide +kernel

theorem test_execGetRate : goesTo (exec .getRate { fresh with rateIndex := 5 })
    (fun t => t.res0 = 0x0000AC44#32 ∧ t.cstat = .ok) = true := by decide +kernel

theorem test_execStreamStart : goesTo (exec .streamStart { playing 100 0 100 with run := false, ampEn := false })
    (fun t => t.run = true ∧ t.ampEn = true ∧ t.writeIndex = 0 ∧ t.count = 0) = true := by decide +kernel

theorem test_execStreamStop : goesTo (exec .streamStop (fast 400 0 400))
    (fun t => t.run = false ∧ t.ampEn = false ∧ t.count = 0 ∧ t.mode = .spedUp ∧ t.actX = 116) = true := by
  decide +kernel

theorem test_execBufReset : goesTo (exec .bufReset (fast 60 96 604))
    (fun t => t = fast 0 0 0) = true := by decide +kernel

/-! ### `SUBMIT` (vectors V-W1 to V-W9) -/

/-- `(400, 96, 304)` with the bytes 640 to 699 of the packet that ran into the slack, of which two are listed. -/
def beforeWrap : State :=
  { playing 400 96 304 with storage := (List.range 60).map fun k => (640 + k, BitVec.ofNat 8 (138 + k)) }

theorem test_execSubmit_wraps : goesTo (exec (.submit 300) beforeWrap)
    (fun t => t.writeIndex = 60 ∧ t.count = 604 ∧ stor t 0 = 138 ∧ stor t 59 = 197 ∧ stor t 640 = 138 ∧
      regRead t .nextWr = 0x103C#32) = true := by decide +kernel

theorem test_execSubmit_overruns : goesTo (exec (.submit 300) (fast 400 0 400))
    (fun t => t = { fast 0 0 0 with event := 4 }) = true := by decide +kernel

/-! ### `DRAIN` (vectors V-D2 to V-D7) -/

/-- Six bytes in the buffer (vector V-D4). -/
def sixBytes : State :=
  { playing 6 0 6 with storage := [(0, 0x11), (1, 0x22), (2, 0x33), (3, 0x44), (4, 0x55), (5, 0x66)] }

theorem test_execDrain_repeats : goesTo (exec (.drain 3) sixBytes)
    (fun t => t.txLog = [0x44332211, 0x44332211, 0x44332211] ∧ t.readIndex = 4 ∧ t.count = 2 ∧ t.event = 8) = true := by
  decide +kernel

theorem test_execDrain_hysteresis : goesTo (exec (.drain 0) (playing 400 0 400)) (fun t => t = fast 400 0 400) = true ∧
    goesTo (exec (.drain 0) (playing 399 0 399)) (fun t => t = playing 399 0 399) = true ∧
    goesTo (exec (.drain 0) (fast 240 0 240)) (fun t => t = fast 240 0 240) = true ∧
    goesTo (exec (.drain 0) (fast 239 0 239)) (fun t => t = playing 239 0 239) = true := by decide +kernel

/-! ### Every statement's hypotheses are met somewhere -/

theorem witness_DecodeInvertsEncode : (Instr.drain 8).wellFormed 8 = true := by decide

theorem witness_DecodedWordIsTheCommandsWord : decode 8 0x00FFFF08#32 = .command (.submit 65535) := by decide

/-- A word at the edge of each case of R98, and a legal word beside it. -/
theorem witness_IllegalWordOnlyRaisesIllegalCommand :
    (∀ c ∈ [0x00000000#32, 0x0000000A#32, 0x00000101#32, 0x00000203#32, 0x01000008#32, 0x00001009#32, 0x00000909#32],
      ∃ why, decode fresh.conf.fifoDepth c = .illegal why) ∧
    ∀ c ∈ [0x00000001#32, 0x00000103#32, 0x00FFFF08#32, 0x00000809#32],
      ∃ i, decode fresh.conf.fifoDepth c = .command i := by
  constructor
  · intro c hc
    simp only [List.mem_cons, List.not_mem_nil, or_false] at hc
    rcases hc with rfl | rfl | rfl | rfl | rfl | rfl | rfl <;> exact ⟨_, rfl⟩
  · intro c hc
    simp only [List.mem_cons, List.not_mem_nil, or_false] at hc
    rcases hc with rfl | rfl | rfl | rfl <;> exact ⟨_, rfl⟩

/-- The drain agent's `DRAIN 3` is next at the port. -/
def drainNext : State := asking .drain (.write32 0x00#32 0x00000309#32) sixBytes

theorem witness_StepRunsTheDecodedCommand :
    drainNext.inputs = [.take .drain] ∧ drainNext.inReset = false ∧
    queueOf .drain drainNext = [.write32 0x00#32 0x00000309#32] ∧
    decode drainNext.conf.fifoDepth 0x00000309#32 = .command (.drain 3) := by decide

theorem witness_RequestsAreTakenInProgramOrder :
    drainNext.inputs = [.take .drain] ∧ drainNext.inReset = false ∧
    queueOf .drain drainNext = [.write32 0x00#32 0x00000309#32] ∧ Completes (step drainNext) :=
  ⟨by decide, by decide, by decide, completes_of_goesTo (p := fun t => t.count = 2) (by decide +kernel)⟩

theorem witness_ResetInputHoldsOffRequestsThenGivesTheResetState :
    ({ fresh with inputs := [.assertReset] } : State).inputs = [.assertReset] ∧
    (({ fresh with inputs := [.take .host], inReset := true } : State).inputs = [.take .host] ∧
      ({ fresh with inputs := [.take .host], inReset := true } : State).inReset = true) ∧
    ({ fresh with inputs := [.releaseReset], inReset := true } : State).inputs = [.releaseReset] ∧
    ({ fresh with inputs := [.releaseReset], inReset := true } : State).inReset = true := by decide

theorem witness_CommandsInTheResetState : 0 < (1#16).toNat := by decide

theorem witness_DividerAndProfileRegisterLayouts :
    ((playing 0 0 0).prof.get 6).valid = true ∧ (fresh.prof.get 0).valid = false := by decide

theorem witness_OtherRegistersReadTheirState :
    ({ playing 0 0 0 with writeIndex := 7679 } : State).writeIndex.toNat < (playing 0 0 0).conf.storageSize := by decide

/-- A read-only register at the top of the map, and the two kinds of bus error. -/
theorem witness_RegisterWriteEffects :
    ((0x74#32).toNat % 4 = 0 ∧ (0x74#32).toNat ≤ 0x74 ∧ 0x74#32 ∉ [0x00#32, 0x04#32, 0x08#32, 0x18#32]) ∧
    ((0x02#32).toNat % 4 ≠ 0 ∨ 0x74 < (0x02#32).toNat) ∧ ((0x78#32).toNat % 4 ≠ 0 ∨ 0x74 < (0x78#32).toNat) := by decide

theorem witness_StorageWindowReadsBackWrites : 0 < fresh.conf.storageSize ∧ 7679 < fresh.conf.storageSize := by decide

theorem witness_IllegalRequestIsABusErrorAndNothingElse :
    ((0x06#32).toNat % 4 ≠ 0 ∨ 0x74 < (0x06#32).toNat) ∧ ((0x78#32).toNat % 4 ≠ 0 ∨ 0x74 < (0x78#32).toNat) ∧
    ((0x0FFF#32).toNat < fresh.conf.storageBase) ∧
    fresh.conf.storageBase + fresh.conf.storageSize ≤ (0x2E00#32).toNat := by decide

theorem witness_SolveFailsExactlyWhenTargetReachesClock : 1 ≤ 1536000 ∧ 1536000 ≤ 48000 * 2 * 16 ∧
    ¬1536001 ≤ 48000 * 2 * 16 := by decide

theorem witness_SolveTakesTheLargestPrescale : 1 ≤ 1536000 ∧ solve 1536000 48000 2 16 = none ∧
    solve 25000000 22050 2 16 = some ⟨34, 244, 247, 81, 82⟩ := by decide +kernel

/-- Both classes have a member, no denominator rounds down, and none rounds up (vectors V-S6, V-S2 row 1, V-S9). -/
theorem witness_SolveKeepsTheBestDenominators :
    (solve 25000000 22050 2 16 = some ⟨34, 244, 247, 81, 82⟩ ∧
      0x8000 < 247 * (22050 * 2 * 16 * 2 ^ 16 * 35 / 25000000) % 2 ^ 16 ∧
      82 * (22050 * 2 * 16 * 2 ^ 16 * 35 / 25000000) % 2 ^ 16 ≤ 0x8000) ∧
    (solve 12000000 11025 2 16 = some ⟨33, 1, 1, 254, 255⟩ ∧
      ∀ y < 256, 1 ≤ y → 0x8000 < y * (11025 * 2 * 16 * 2 ^ 16 * 34 / 12000000) % 2 ^ 16) ∧
    solve 2 1 1 1 = some ⟨0, 128, 255, 127, 254⟩ ∧
      ∀ y < 256, 1 ≤ y → y * (1 * 1 * 1 * 2 ^ 16 * 1 / 2) % 2 ^ 16 ≤ 0x8000 := by decide +kernel

theorem witness_SolveNumeratorsNeedNoUpperClamp :
    1 ≤ 24576000 ∧ solve 24576000 8000 2 16 = some ⟨63, 3, 3, 169, 254⟩ := by decide +kernel

/-- A slow pair at or below the target, and one that the forced numerator puts above it (vector V-S14). -/
theorem witness_FastPairIsAboveSlowPairBelowTheTarget :
    solve 24576000 8000 2 16 = some ⟨63, 3, 3, 169, 254⟩ ∧ solve 100000 1 1 1 = some ⟨63, 1, 255, 1, 1⟩ := by
  decide +kernel

theorem witness_ZeroTargetSolves : 1 ≤ 25000000 ∧ 0 * 2 * 16 = 0 ∧ 22050 * 0 * 16 = 0 := by decide

/-- `SOLVE 48000, 2, 16` at a reference clock. -/
def at48kHz (hz : Nat) (h : 1 ≤ hz ∧ hz < 2 ^ 32) : State := args (config hz h) 48000 0x1002

/-- The last clock that fails and the first that does not. -/
theorem witness_SolveCommandReportsTheSolution :
    (at48kHz 1536000 (by decide)).conf.refClkHz ≤ (at48kHz 1536000 (by decide)).arg0.toNat *
      ((at48kHz 1536000 (by decide)).arg1.toNat % 256) * ((at48kHz 1536000 (by decide)).arg1.toNat / 256) ∧
    ¬(at48kHz 1536001 (by decide)).conf.refClkHz ≤ (at48kHz 1536001 (by decide)).arg0.toNat *
      ((at48kHz 1536001 (by decide)).arg1.toNat % 256) * ((at48kHz 1536001 (by decide)).arg1.toNat / 256) := by decide

theorem witness_InitBuildsTheTableOnce : (playing 0 0 0).tableReady = true ∧ fresh.tableReady = false := by decide

theorem witness_InitFailsOnAnUpperSegment : fresh.tableReady = false ∧ ∃ t, exec .init fresh = .next t :=
  ⟨rfl, _, rfl⟩

/-- The rate value of a state in a format, as the two statements about `SET_RATE` write it. -/
abbrev rateValue (fmt : RateFormat) (s : State) : Nat :=
  match fmt with
  | .bits24 => s.arg0.toNat % 2 ^ 24
  | .bits32 => s.arg0.toNat

/-- Streaming, with a rate value. -/
def asked (v : Word) : State := { playing 60 96 604 with arg0 := v }

/-- Each format, with the top byte of `ARG0` ignored or not, at the first and the last rate. -/
theorem witness_AcceptedRateReinitialisesThePlayer :
    (rateValue .bits24 (asked 0x01001F40) = [8000, 11025, 16000, 22050, 32000, 44100, 48000].getD (0 : Fin 7).val 0 ∧
      ((asked 0x01001F40).prof.get 0).valid = true) ∧
    rateValue .bits32 (asked 48000) = [8000, 11025, 16000, 22050, 32000, 44100, 48000].getD (6 : Fin 7).val 0 ∧
      ((asked 48000).prof.get 6).valid = true := by decide

/-- A value above the highest rate (vector V-C3), and a rate of the table before `INIT`. -/
theorem witness_RejectedRateChangesNothingElse :
    (∀ i : Fin 7, rateValue .bits32 (asked 48001) = [8000, 11025, 16000, 22050, 32000, 44100, 48000].getD i.val 0 →
      ((asked 48001).prof.get i).valid = false) ∧
    ∀ i : Fin 7, rateValue .bits24 (args at25MHz 48000 0) =
      [8000, 11025, 16000, 22050, 32000, 44100, 48000].getD i.val 0 →
      ((args at25MHz 48000 0).prof.get i).valid = false := by decide

theorem witness_StreamStartRunsOnlyWithAProfile : (playing 0 0 0).cfg = true ∧ fresh.cfg = false := by decide

theorem witness_BufferResetsKeepTheSpeedMode :
    (fast 400 0 400).capacity.toNat < (fast 400 0 400).count.toNat + (241#16).toNat ∧
    Completes (exec (.submit 241) (fast 400 0 400)) ∧ Completes (exec .bufReset (fast 400 0 400)) ∧
    Completes (exec .streamStart (fast 400 0 400)) ∧ Completes (exec .streamStop (fast 400 0 400)) :=
  ⟨by decide, ⟨_, rfl⟩, ⟨_, rfl⟩, ⟨_, rfl⟩, ⟨_, rfl⟩⟩

/-- One byte too many, and a packet that fills the buffer exactly (vector V-W2). -/
theorem witness_OverrunResetsTheWholeBuffer :
    (playing 0 0 640).capacity.toNat < (playing 0 0 640).count.toNat + (1#16).toNat ∧
    BufferInv (playing 0 0 0) ∧ FitsTwice (playing 0 0 0) ∧
    (playing 0 0 0).count.toNat + (640#16).toNat = (playing 0 0 0).capacity.toNat := by decide

/-- An overrun by one byte, a packet that ends one byte below the capacity, and one that ends at it. -/
theorem witness_SubmitFollowsItsPseudocode :
    (playing 400 0 400).capacity.toNat < (playing 400 0 400).count.toNat + (241#16).toNat ∧
    BufferInv (playing 400 96 304) ∧ FitsTwice (playing 400 96 304) ∧
    (playing 400 96 304).count.toNat + (336#16).toNat ≤ (playing 400 96 304).capacity.toNat ∧
    ¬(playing 400 96 304).capacity.toNat ≤ (playing 400 96 304).writeIndex.toNat + (239#16).toNat ∧
    (playing 400 96 304).capacity.toNat ≤ (playing 400 96 304).writeIndex.toNat + (240#16).toNat := by decide

theorem witness_SubmitAppendsThePacketBytes :
    BufferInv (playing 400 96 304) ∧ FitsTwice (playing 400 96 304) ∧
    (playing 400 96 304).count.toNat + (336#16).toNat ≤ (playing 400 96 304).capacity.toNat ∧
    ∃ t, exec (.submit 336) (playing 400 96 304) = .next t :=
  ⟨by decide, by decide, by decide, _, rfl⟩

theorem witness_PacketsThatFitTogetherNeedNoCopy :
    (playing 0 0 0).count = 0 ∧ (playing 0 0 0).writeIndex = 0 ∧ (playing 0 0 0).readIndex = 0 ∧
    FitsTwice (playing 0 0 0) ∧ ([58#16, 300#16, 282#16].map BitVec.toNat).sum ≤ (playing 0 0 0).capacity.toNat := by
  decide

theorem witness_NextWriteAddressFollowsTheWriteIndex :
    BufferInv (playing 400 96 304) ∧ FitsTwice (playing 400 96 304) ∧ 0 < (playing 400 96 304).capacity.toNat ∧
    ∃ t, exec (.submit 300) (playing 400 96 304) = .next t :=
  ⟨by decide, by decide, by decide, _, rfl⟩

theorem witness_MaskedDrainDoesNothing : fresh.run = false := rfl

theorem witness_DrainConsumesThenRepeats :
    BufferInv sixBytes ∧ FitsTwice sixBytes ∧ sixBytes.run = true := by decide

/-- Each row of the state machine at its boundary: counts 400, 399, 239 and 240 of a capacity of 640. -/
theorem witness_HysteresisStateMachine :
    ((playing 400 0 400).mode = .normal ∧ 5 * 640 ≤ 8 * 400 ∧ Completes (exec (.drain 0) (playing 400 0 400))) ∧
    ((playing 399 0 399).mode = .normal ∧ 8 * 399 < 5 * 640 ∧ Completes (exec (.drain 0) (playing 399 0 399))) ∧
    ((fast 239 0 239).mode = .spedUp ∧ 8 * 239 < 3 * 640 ∧ Completes (exec (.drain 0) (fast 239 0 239))) ∧
    ((fast 240 0 240).mode = .spedUp ∧ 3 * 640 ≤ 8 * 240 ∧ Completes (exec (.drain 0) (fast 240 0 240))) ∧
    (playing 400 0 400).run = true :=
  ⟨⟨rfl, by decide, _, rfl⟩, ⟨rfl, by decide, _, rfl⟩, ⟨rfl, by decide, _, rfl⟩, ⟨rfl, by decide, _, rfl⟩, rfl⟩

theorem witness_DrainFrame : sixBytes.run = true ∧ ∃ t, exec (.drain 3) sixBytes = .next t :=
  ⟨rfl, completes_of_goesTo (p := fun t => t.count = 2) (by decide +kernel)⟩

/-- The last sample below the capacity. -/
def lastFour : State := { playing 0 636 4 with storage := [(636, 1), (637, 2), (638, 3), (639, 4)] }

theorem witness_DrainPlaysTheOldestBytes :
    BufferInv lastFour ∧ lastFour.run = true ∧ 4 ≤ lastFour.count.toNat ∧
    lastFour.readIndex.toNat + 4 ≤ lastFour.capacity.toNat ∧ ∃ t, exec (.drain 1#4) lastFour = .next t :=
  ⟨by decide, rfl, by decide, by decide, completes_of_goesTo (p := fun t => t.readIndex = 0) (by decide +kernel)⟩

theorem witness_AlignedCapacityKeepsTheReadIndexAligned :
    BufferInv lastFour ∧ 4 ∣ lastFour.capacity.toNat ∧ 4 ∣ lastFour.readIndex.toNat ∧
    ∃ t, exec (.drain 1#4) lastFour = .next t :=
  ⟨by decide, by decide, by decide, completes_of_goesTo (p := fun t => t.readIndex = 0) (by decide +kernel)⟩

/-- The two requests of program P5. -/
theorem witness_PacketAndTickCommuteButForTheSpeed :
    BufferInv (playing 400 96 304) ∧ FitsTwice (playing 400 96 304) ∧ (playing 400 96 304).run = true ∧
    (playing 400 96 304).count.toNat + (300#16).toNat ≤ (playing 400 96 304).capacity.toNat ∧
    4 * (8#4).toNat ≤ (playing 400 96 304).count.toNat := by decide

theorem inv_drainNext : Inv drainNext := by decide +kernel

theorem witness_StepKeepsTheInvariant : Inv drainNext ∧ ∃ t, step drainNext = .next t :=
  ⟨inv_drainNext, completes_of_goesTo (p := fun t => t.count = 2) (by decide +kernel)⟩

theorem witness_InvariantGivesRoomForTheTail : Inv drainNext := inv_drainNext

theorem witness_NoStepStops : Inv drainNext := inv_drainNext

theorem witness_TableAndConfigurationStayFixed :
    drainNext.tableReady = true ∧ drainNext.inReset = false ∧ ∃ t, step drainNext = .next t :=
  ⟨rfl, rfl, completes_of_goesTo (p := fun t => t.count = 2) (by decide +kernel)⟩

theorem witness_WhoWritesTheHostRegisters : ∃ t, exec .bufReset fresh = .next t := ⟨_, rfl⟩

theorem witness_OnlySubmitWritesStorage :
    (∀ l, Instr.bufReset ≠ .submit l) ∧ ∃ t, exec .bufReset fresh = .next t := ⟨fun l h => (by cases h), _, rfl⟩

theorem witness_ProducerAndDrainLeaveTheHostsState :
    Agent.drain ≠ .host ∧ drainNext.inputs = [.take .drain] ∧ drainNext.inReset = false ∧
    queueOf .drain drainNext = [.write32 0x00#32 0x00000309#32] ∧
    keepsRole drainNext.conf.fifoDepth .drain (.write32 0x00#32 0x00000309#32) = true ∧ ∃ t, step drainNext = .next t :=
  ⟨by decide, rfl, rfl, rfl, by decide, completes_of_goesTo (p := fun t => t.count = 2) (by decide +kernel)⟩

end Sys2Proof.Tests
end

/-! The commands in the reset state (R241). Each command gets its rule under the few facts about the state that it
reads; the reset state meets them by R58. -/

namespace Sys2Proof.Machine

/-! ### One rule per command, under what it reads -/

/-- The first event raised is the only flag set (R44, R220). -/
theorem raise_of_no_event {s : State} (hevent : s.event = 0) (e : Event) :
    raise e s = { s with event := eventBit e } := by
  simp [raise, hevent]

/-- Resetting the indices of a buffer whose indices are 0 already changes nothing (R32). -/
theorem bufReset_eq_self {s : State} (hcount : s.count = 0) (hwrite : s.writeIndex = 0) (hread : s.readIndex = 0) :
    bufReset s = s := by
  cases s
  simp_all [bufReset]

/-- `DRAIN` is masked while `run = 0` (R176). -/
theorem exec_drain_of_not_running {s : State} (hrun : s.run = false) (n : BitVec 4) :
    exec (.drain n) s = .next s := by
  simp [exec, execDrain, hrun]

/-- `STREAM_START` without a loaded profile is refused (R193). -/
theorem exec_streamStart_of_not_cfg {s : State} (hcfg : s.cfg = false) :
    exec .streamStart s = .next (raise .illegalCommand s) := by
  simp [exec, execStreamStart, hcfg]

/-- `STREAM_STOP` of a stream that is stopped already leaves what `BUF_RESET` leaves (R194). -/
theorem exec_streamStop_of_stopped {s : State} (hrun : s.run = false) (hamp : s.ampEn = false) :
    exec .streamStop s = .next (bufReset s) := by
  cases s
  simp_all [exec, execStreamStop, bufReset]

/-- With no valid entry in the table `SET_RATE` rejects every rate (R191). -/
theorem exec_setRate_of_no_valid_profile {s : State} (hprof : ∀ i, (s.prof.get i).valid = false) (fmt : RateFormat) :
    exec (.setRate fmt) s = .next (rejectRate s) := by
  have hnone : acceptedRate (rateOperand fmt s) s = none := (acceptedRate_eq_none _ s).2 fun i _ => hprof i
  simp [exec, execSetRate, hnone]

/-- A packet that does not fit overruns (R153). -/
theorem exec_submit_of_overrun {s : State} {l : BitVec 16} (hfit : s.capacity.toNat < s.count.toNat + l.toNat) :
    exec (.submit l) s = .next (overrun s) :=
  submitPacket_overrun hfit

/-- The empty packet reaches a capacity of 0 exactly, and its empty tail copy leaves the state as it is (R152). -/
theorem exec_submit_zero_of_no_capacity {s : State} (hcap : s.capacity = 0) (hcount : s.count = 0)
    (hwrite : s.writeIndex = 0) : exec (.submit 0#16) s = .next s := by
  have hwrapped : acceptWrapped (s.count.toNat + 0) (s.writeIndex.toNat + 0) s = s := by
    cases s
    simp_all [acceptWrapped, copyTail]
  calc exec (.submit 0#16) s
      = .next (acceptWrapped (s.count.toNat + 0) (s.writeIndex.toNat + 0) s) :=
        submitPacket_wrapped (l := 0) (by simp [hcount]) (by simp [hcap]) (by simp [hwrite])
    _ = .next s := by rw [hwrapped]

/-- The first `INIT` installs the table (R141). -/
theorem exec_init_of_not_ready {s : State} (hready : s.tableReady = false) :
    exec .init s = .next (installTable (buildTable s.conf.refClkHz) s) := by
  simp [exec, execInit, hready]

/-- The rates of R10, in order. -/
theorem rate_eq_getD : ∀ i : Fin 7,
    Config.rate i = [8000, 11025, 16000, 22050, 32000, 44100, 48000].getD i.val 0 := by decide

/-- `RES0` after `GET_RATE` is the current rate, which no narrowing cuts (R192). -/
theorem exec_getRate_res0 (s : State) :
    ∃ t, exec .getRate s = .next t ∧ t.res0.toNat = Config.rate s.rateIndex := by
  have hlt : ∀ i : Fin 7, Config.rate i < 2 ^ 32 := by decide
  exact ⟨_, rfl, Nat.mod_eq_of_lt (hlt s.rateIndex)⟩

/-! ### The reset state -/

/-- The reset table has no valid entry (R58). -/
theorem resetOf_prof_not_valid (c : Config) (draw : Nat) (i : Fin 7) :
    ((State.resetOf c draw).prof.get i).valid = false := by
  have hentry : (State.resetOf c draw).prof.get i = .invalid := get_seven (fun _ => Profile.invalid) i
  rw [hentry]
  rfl

/-- Settles O10: the reset values of R58 meet what each command's rule asks of the state. -/
theorem commandsInTheResetState : Obligations.CommandsInTheResetState := by
  intro c draw v s
  have hbuf : bufReset s = s := bufReset_eq_self rfl rfl rfl
  have hraise (e : Event) : raise e s = { s with event := eventBit e } := raise_of_no_event rfl e
  refine ⟨fun n => exec_drain_of_not_running rfl n, ?streamStart, ?streamStop, ?bufReset, ?setRate, ?submit,
    exec_submit_zero_of_no_capacity rfl rfl rfl, ?getRate, ⟨_, rfl⟩, ?init⟩
  case streamStart => rw [exec_streamStart_of_not_cfg rfl, hraise, eventBit_illegalCommand]
  case streamStop => rw [exec_streamStop_of_stopped rfl rfl, hbuf]
  case bufReset => exact congrArg Host.Outcome.next hbuf
  case setRate =>
    intro fmt
    have hprof (i : Fin 7) : (s.prof.get i).valid = false := resetOf_prof_not_valid c draw i
    rw [exec_setRate_of_no_valid_profile hprof fmt, rejectRate, hraise,
      eventBit_rateUnsupported, complete]
  case submit =>
    intro l hl
    have hfit : s.capacity.toNat < s.count.toNat + l.toNat := Nat.lt_add_left _ hl
    rw [exec_submit_of_overrun hfit, overrun, bufReset_eq_self rfl rfl rfl, hraise, eventBit_bufferOverrun]
  case getRate =>
    obtain ⟨t, ht, hres⟩ := exec_getRate_res0 s
    exact ⟨t, ht, hres.trans (rate_eq_getD _)⟩
  case init =>
    refine ⟨_, exec_init_of_not_ready rfl, ?_, fun i => ?_⟩
    · rw [installTable_frame]
    · rw [installTable_frame, ← rate_eq_getD]
      exact get_buildTable c.refClkHz i

end Sys2Proof.Machine

/-! The state the host sees: the table of reset values (R58) and the register `STATUS` (R43). The word that `STATUS`
reads as is a sum of weighted fields; it is tied once to the list of its bits, and each field is then read off the
list. -/

namespace Sys2Proof.Machine

/-! ### The reset values -/

/-- Every entry of the table is invalid at reset (R58). -/
theorem resetOf_prof_get (c : Config) (draw : Nat) (i : Fin 7) :
    (State.resetOf c draw).prof.get i = .invalid :=
  get_seven (fun _ => Profile.invalid) i

/-- No byte has been written at reset, so each reads as the free byte of its offset (R35, R58). -/
theorem stor_resetOf (c : Config) (draw k : Nat) : stor (State.resetOf c draw) k = Config.resetByte draw k := rfl

/-- Settles O9: the fields of `State.resetOf` in the order of R58's table; the entries and the bytes by their lemmas. -/
theorem resetValuesAreTheTable : Obligations.ResetValuesAreTheTable := by
  intro c draw s
  have hprof (i : Fin 7) : s.prof.get i = ⟨false, 0, 0, 0, 0, 0⟩ := resetOf_prof_get c draw i
  have hstor (k : Nat) : stor s k = Config.resetByte draw k := stor_resetOf c draw k
  exact ⟨rfl, rfl, rfl, rfl, rfl, rfl, hprof, rfl, rfl, rfl, rfl, rfl, rfl, rfl, rfl, rfl, rfl, rfl, rfl, rfl, rfl,
    hstor, rfl⟩

/-! ### 32-bit requests at a register -/

/-- A read of a register answers its word and changes nothing else (R62). -/
theorem perform_read32_reg {a : Word} {r : Reg} (hreg : regAt a = some r) (s : State) :
    perform (.read32 a) s = .next (respond (.word (regRead s r)) s) := by
  simp [perform, busRead, hreg]

/-- A write of a register other than `CMD` is `regWrite` (R63). -/
theorem perform_write32_reg {a : Word} {r : Reg} (hreg : regAt a = some r) (hcmd : r ≠ .cmd) (v : Word) (s : State) :
    perform (.write32 a v) s = .next (regWrite r v (respond .written s)) := by
  cases r with
  | cmd => exact absurd rfl hcmd
  | _ => simp [perform, busWrite, hreg]

/-- The offset of `STATUS` (R36). -/
theorem regAt_status : regAt 0x1C#32 = some .status := rfl

/-! ### The bits of `STATUS` -/

theorem bit_eq_toNat (b : Bool) : bit b = b.toNat := by cases b <;> rfl

theorem modeBit_eq_toNat (m : Mode) : modeBit m = (decide (m = .spedUp)).toNat := by cases m <;> rfl

/-- A rate index is the sum of its three bits. -/
theorem rateIndex_eq_bits : ∀ i : Fin 7,
    i.val = (i.val.testBit 0).toNat + (i.val.testBit 1).toNat * 2 + (i.val.testBit 2).toNat * 4 := by decide

theorem ofBoolListLE_nil_toNat : (BitVec.ofBoolListLE []).toNat = 0 := rfl

/-- The value of a list of bits, one bit at a time. -/
theorem ofBoolListLE_cons_toNat (b : Bool) (bs : List Bool) :
    (BitVec.ofBoolListLE (b :: bs)).toNat = (BitVec.ofBoolListLE bs).toNat * 2 + b.toNat :=
  BitVec.toNat_concat _ b

/-- `STATUS[15:0]`, bit 0 first (R43). -/
def statusBits (s : State) : List Bool :=
  [s.run, decide (s.mode = .spedUp), s.cfg, s.tableReady,
    s.rateIndex.val.testBit 0, s.rateIndex.val.testBit 1, s.rateIndex.val.testBit 2, false,
    (s.prof.get 0).valid, (s.prof.get 1).valid, (s.prof.get 2).valid, (s.prof.get 3).valid, (s.prof.get 4).valid,
    (s.prof.get 5).valid, (s.prof.get 6).valid, s.ampEn]

/-- The weighted sum that `statusWord` computes has the bits of the list. -/
theorem statusWord_eq_bits (s : State) : statusWord s = (BitVec.ofBoolListLE (statusBits s)).setWidth 32 := by
  apply BitVec.eq_of_toNat_eq
  have hrate := rateIndex_eq_bits s.rateIndex
  simp only [statusWord, validBits, statusBits, bit_eq_toNat, modeBit_eq_toNat, BitVec.toNat_setWidth,
    BitVec.toNat_ofNat, ofBoolListLE_nil_toNat, ofBoolListLE_cons_toNat, Bool.toNat_false]
  omega

/-- Each bit of `STATUS`; those past the list are 0 (R43). -/
theorem statusWord_getLsbD (s : State) {k : Nat} (hk : k < 32) :
    (statusWord s).getLsbD k = (statusBits s).getD k false := by
  rw [statusWord_eq_bits, BitVec.getLsbD_setWidth, BitVec.getLsbD_ofBoolListLE, decide_eq_true hk, Bool.true_and]

/-- `VALID` (R43). -/
theorem statusWord_valid (s : State) (i : Fin 7) : (statusWord s).getLsbD (8 + i.val) = (s.prof.get i).valid := by
  rw [statusWord_getLsbD s (by omega)]
  fin_cases i <;> rfl

/-- `RATE_INDEX` (R43). -/
theorem statusWord_rateIndex (s : State) : ((statusWord s).extractLsb' 4 3).toNat = s.rateIndex.val := by
  have hfield : (statusWord s).extractLsb' 4 3 = BitVec.ofNat 3 s.rateIndex.val := by
    apply BitVec.eq_of_getLsbD_eq
    intro j hj
    rw [BitVec.getLsbD_extractLsb', statusWord_getLsbD s (by omega), BitVec.getLsbD_ofNat]
    interval_cases j <;> rfl
  rw [hfield, BitVec.toNat_ofNat]
  omega

/-- Bits 31:16 read 0 (R43). -/
theorem statusWord_high (s : State) : (statusWord s).extractLsb' 16 16 = 0#16 := by
  apply BitVec.eq_of_getLsbD_eq
  intro j hj
  have hlen : (statusBits s).length ≤ 16 + j := Nat.le_add_right 16 j
  rw [BitVec.getLsbD_extractLsb', statusWord_getLsbD s (by omega), List.getD_eq_default _ _ hlen,
    Bool.and_false, BitVec.getLsbD_zero]

/-- At reset only `RATE_INDEX` is not 0 (R43, R58). -/
theorem statusWord_resetOf (c : Config) (draw : Nat) :
    (statusWord (State.resetOf c draw)).toNat = c.params.defaultRateIndex.val * 16 := by
  have hvalid : validBits (State.resetOf c draw) = 0 := by
    simp [validBits, resetOf_prof_not_valid, bit]
  have hsum : statusWord (State.resetOf c draw) = BitVec.ofNat 32 (c.params.defaultRateIndex.val * 16) := by
    rw [statusWord, hvalid]
    simp [State.resetOf, bit, modeBit]
  rw [hsum, BitVec.toNat_ofNat]
  omega

/-- Settles O11: the two requests by the rules for a register, the fields by the bits of the word. -/
theorem statusRegisterLayout : Obligations.StatusRegisterLayout := by
  have hbit (s : State) (k : Nat) (hk : k < 32) := statusWord_getLsbD s hk
  refine ⟨statusWord_resetOf, fun s v => perform_write32_reg regAt_status (by decide) v s, fun s => ?read⟩
  case read =>
    exact ⟨statusWord s, perform_read32_reg regAt_status s,
      hbit s 0 (by decide), hbit s 1 (by decide), hbit s 2 (by decide), hbit s 3 (by decide),
      statusWord_rateIndex s, hbit s 7 (by decide), statusWord_valid s, hbit s 15 (by decide), statusWord_high s⟩

end Sys2Proof.Machine

/-! The requests of the port (R62 to R66): the legal ones reach a register or a byte of the window, every other one is a
bus error. An offset names at most one register, so the four that a write acts on are at their own offsets only. -/

namespace Sys2Proof.Machine

/-! ### The bus error -/

/-- A bus error sets `EVENT.BUS`, answers, and changes nothing else (R66). -/
theorem busError_eq (r : Response) (s : State) :
    busError r s = { s with event := s.event ||| 0b100000#6, response := r } := by
  rw [busError, raise, eventBit_busError, respond]

theorem perform_read32_illegal {a : Word} (hnone : regAt a = none) (s : State) :
    perform (.read32 a) s = .next (busError .readError s) := by
  simp [perform, busRead, hnone]

theorem perform_write32_illegal {a : Word} (hnone : regAt a = none) (v : Word) (s : State) :
    perform (.write32 a v) s = .next (busError .writeError s) := by
  simp [perform, busWrite, hnone]

theorem perform_read8_illegal {a : Word} {s : State} (hnone : storageOffset s a = none) :
    perform (.read8 a) s = .next (busError .readError s) := by
  simp [perform, busRead8, hnone]

theorem perform_write8_illegal {a : Word} {s : State} (hnone : storageOffset s a = none) (b : Byte) :
    perform (.write8 a b) s = .next (busError .writeError s) := by
  simp [perform, busWrite8, hnone]

/-- Settles O16: the 32-bit requests by what lies outside the register map, the 8-bit ones by what lies outside the
window. -/
theorem illegalRequestIsABusErrorAndNothingElse : Obligations.IllegalRequestIsABusErrorAndNothingElse := by
  intro s a v b
  refine ⟨fun hoff => ?word, fun hoff => ?byte, rfl, rfl, rfl⟩
  case word =>
    have hnone : regAt a = none := (regAt_eq_none a).2 hoff
    rw [perform_read32_illegal hnone, perform_write32_illegal hnone, busError_eq, busError_eq]
    exact ⟨rfl, rfl⟩
  case byte =>
    have hnone : storageOffset s a = none := (storageOffset_eq_none s a).2 hoff
    rw [perform_read8_illegal hnone, perform_write8_illegal hnone, busError_eq, busError_eq]
    exact ⟨rfl, rfl⟩

/-! ### An offset names at most one register -/

/-- The word offset of a register in R36's table. -/
def Reg.word : Reg → Nat
  | .cmd => 0
  | .arg0 => 1
  | .arg1 => 2
  | .res0 => 3
  | .res1 => 4
  | .cstat => 5
  | .event => 6
  | .status => 7
  | .capacity => 8
  | .wridx => 9
  | .rdidx => 10
  | .count => 11
  | .nextWr => 12
  | .lastSample => 13
  | .activeDiv => 14
  | .refClk => 15
  | .profA i => 16 + 2 * i.val
  | .profB i => 17 + 2 * i.val

/-- `Reg.word` inverts the model's map. -/
theorem word_of_regOfWord {w : Nat} {r : Reg} (h : regOfWord w = some r) : r.word = w := by
  have hle : w ≤ 29 := by
    by_contra hgt
    simp [regOfWord_eq_none (Nat.lt_of_not_le hgt)] at h
  interval_cases w <;> (cases h; rfl)

theorem toNat_of_regAt {a : Word} {r : Reg} (h : regAt a = some r) : a.toNat = 4 * r.word := by
  unfold regAt at h
  split_ifs at h with halign
  rw [word_of_regOfWord h]
  omega

theorem regAt_inj {a b : Word} {r : Reg} (ha : regAt a = some r) (hb : regAt b = some r) : a = b :=
  BitVec.eq_of_toNat_eq ((toNat_of_regAt ha).trans (toNat_of_regAt hb).symm)

theorem regAt_isSome {a : Word} (halign : a.toNat % 4 = 0) (hle : a.toNat ≤ 0x74) : ∃ r, regAt a = some r := by
  refine Option.ne_none_iff_exists'.1 fun hnone => ?_
  rcases (regAt_eq_none a).1 hnone with hmis | hgt
  · exact hmis halign
  · omega

theorem regAt_cmd : regAt 0x00#32 = some .cmd := rfl

theorem regAt_arg0 : regAt 0x04#32 = some .arg0 := rfl

theorem regAt_arg1 : regAt 0x08#32 = some .arg1 := rfl

theorem regAt_event : regAt 0x18#32 = some .event := rfl

/-! ### What a write of a register does -/

/-- The registers that a write acts on; the others are read-only (R36, R63). -/
def writtenRegs : List Reg := [.cmd, .arg0, .arg1, .event]

theorem regWrite_readOnly {r : Reg} (hr : r ∉ writtenRegs) (v : Word) (s : State) : regWrite r v s = s := by
  cases r with
  | cmd | arg0 | arg1 | event => simp [writtenRegs] at hr
  | _ => rfl

/-- The read-only registers are those at the other offsets (R36). -/
theorem not_mem_writtenRegs {a : Word} {r : Reg} (hreg : regAt a = some r)
    (ha : a ∉ [0x00#32, 0x04#32, 0x08#32, 0x18#32]) : r ∉ writtenRegs := by
  simp only [List.mem_cons, List.not_mem_nil, or_false, not_or] at ha
  obtain ⟨hcmd, harg0, harg1, hevent⟩ := ha
  simp only [writtenRegs, List.mem_cons, List.not_mem_nil, or_false, not_or]
  refine ⟨?_, ?_, ?_, ?_⟩ <;> rintro rfl
  · exact hcmd (regAt_inj hreg regAt_cmd)
  · exact harg0 (regAt_inj hreg regAt_arg0)
  · exact harg1 (regAt_inj hreg regAt_arg1)
  · exact hevent (regAt_inj hreg regAt_event)

theorem perform_write32_readOnly {a : Word} {r : Reg} (hreg : regAt a = some r) (hr : r ∉ writtenRegs) (v : Word)
    (s : State) : perform (.write32 a v) s = .next (respond .written s) := by
  have hcmd : r ≠ .cmd := by
    rintro rfl
    simp [writtenRegs] at hr
  rw [perform_write32_reg hreg hcmd, regWrite_readOnly hr]

/-- A 1 written to a bit of `EVENT` clears it, a 0 leaves it (R44, R221). -/
theorem clearEvents_event_getLsbD (v : Word) (s : State) {b : Nat} (hb : b < 6) :
    (clearEvents v s).event.getLsbD b = (s.event.getLsbD b && !v.getLsbD b) := by
  simp [hb]

/-- Settles O14: the four offsets by the register at each, the others by the read-only registers and the bus error. -/
theorem registerWriteEffects : Obligations.RegisterWriteEffects := by
  intro s v w
  refine ⟨perform_cmd v s, perform_write32_reg regAt_arg0 (by decide) v s, ?arg1, ?event,
    fun a => ⟨fun halign hle hother => ?readOnly, fun hoff => ?illegal⟩⟩
  case arg1 =>
    rw [perform_write32_reg regAt_arg1 (by decide), regWrite, BitVec.setWidth_eq_extractLsb' (by decide)]
    rfl
  case event =>
    exact ⟨clearEvents v w, perform_write32_reg regAt_event (by decide) v s, rfl,
      fun b hb => clearEvents_event_getLsbD v w hb⟩
  case readOnly =>
    obtain ⟨r, hreg⟩ := regAt_isSome halign hle
    exact perform_write32_readOnly hreg (not_mem_writtenRegs hreg hother) v s
  case illegal =>
    rw [perform_write32_illegal ((regAt_eq_none a).2 hoff), busError_eq]

end Sys2Proof.Machine

/-! The illegal words (R98). The operation code comes first: an unknown one is illegal by itself, and under a known one
the two cases left are the reserved bits of its format and the slot count of `DRAIN`. -/

namespace Sys2Proof

/-- The three cases of R98 on the word as a number, the reserved bits written per format (R92 to R95). -/
def IllegalWord (depth : Nat) (c : Word) : Prop :=
  c.toNat % 256 = 0x00 ∨ 0x0A ≤ c.toNat % 256 ∨
    (c.toNat % 256 ∈ [0x01, 0x02, 0x04, 0x05, 0x06, 0x07] ∧ 2 ^ 8 ≤ c.toNat) ∨
    (c.toNat % 256 = 0x03 ∧ 2 ^ 9 ≤ c.toNat) ∨ (c.toNat % 256 = 0x08 ∧ 2 ^ 24 ≤ c.toNat) ∨
    (c.toNat % 256 = 0x09 ∧ 2 ^ 12 ≤ c.toNat) ∨
    (c.toNat % 256 = 0x09 ∧ depth < c.toNat / 2 ^ 8 % 16)

/-- Step (2) of R103. -/
theorem decode_of_opOf_none {c : Word} (hop : opOf (opField c) = none) (depth : Nat) :
    decode depth c = .illegal .unknownOp := by
  simp [decode, hop]

/-- Steps (3) to (5) of R103, the reserved bits as a bound on the word. -/
theorem decode_of_opOf_some {c : Word} {o : Op} (hop : opOf (opField c) = some o) (depth : Nat) :
    decode depth c =
      if 2 ^ usedBits (formatOf o) ≤ c.toNat then .illegal .reservedBit
      else if o = .drain ∧ depth < c.toNat / 2 ^ 8 % 16 then .illegal .tooManySlots
      else .command (assemble o c) := by
  simp [decode, hop, reserved_eq_zero]

theorem illegalWord_of_opOf_none {c : Word} (hop : opOf (opField c) = none) (depth : Nat) : IllegalWord depth c := by
  rw [opOf_eq_none, opField_toNat] at hop
  exact hop.elim .inl fun hge => .inr (.inl hge)

/-- Under a known operation code, R98 leaves its cases (b) and (c). -/
theorem illegalWord_of_opOf_some {c : Word} {o : Op} (hop : opOf (opField c) = some o) (depth : Nat) :
    IllegalWord depth c ↔
      2 ^ usedBits (formatOf o) ≤ c.toNat ∨ o = .drain ∧ depth < c.toNat / 2 ^ 8 % 16 := by
  rw [opOf_eq_some, opField_toNat] at hop
  cases o <;> simp [IllegalWord, hop, opCode, formatOf, usedBits]

/-- The decoder rejects exactly the words of R98. -/
theorem decode_illegal_iff (depth : Nat) (c : Word) :
    (∃ why, decode depth c = .illegal why) ↔ IllegalWord depth c := by
  cases hop : opOf (opField c) with
  | none => exact iff_of_true ⟨_, decode_of_opOf_none hop depth⟩ (illegalWord_of_opOf_none hop depth)
  | some o =>
    rw [decode_of_opOf_some hop, illegalWord_of_opOf_some hop]
    split_ifs with hreserved hslots
    · exact iff_of_true ⟨_, rfl⟩ (.inl hreserved)
    · exact iff_of_true ⟨_, rfl⟩ (.inr hslots)
    · exact iff_of_false (fun ⟨_, h⟩ => nomatch h) (not_or.2 ⟨hreserved, hslots⟩)

/-- The decoder is total: a word that is not illegal is a command (R103). -/
theorem decode_command_of_not_illegalWord {depth : Nat} {c : Word} (hlegal : ¬IllegalWord depth c) :
    ∃ i, decode depth c = .command i := by
  by_contra hnone
  exact hlegal ((decode_illegal_iff depth c).1 ((decode_eq_illegal depth c).2 (not_exists.1 hnone)))

end Sys2Proof

namespace Sys2Proof.Machine

/-- An illegal word sets `EVENT.ILL` and changes nothing else (R98). -/
theorem issueCommand_illegal {c : Word} {s : State} {why : Illegal} (h : decode s.conf.fifoDepth c = .illegal why) :
    issueCommand c s = .next { s with event := s.event ||| 0b010000#6 } := by
  simp [issueCommand, h, raise]

/-- Settles O4: by what the decoder rejects, then by what the port does with a rejected word and with a command. -/
theorem illegalWordOnlyRaisesIllegalCommand : Obligations.IllegalWordOnlyRaisesIllegalCommand := by
  intro s c
  split_ifs with hword
  · obtain ⟨why, hwhy⟩ := (decode_illegal_iff s.conf.fifoDepth c).2 hword
    exact issueCommand_illegal hwhy
  · obtain ⟨i, hi⟩ := decode_command_of_not_illegalWord hword
    exact ⟨i, hi, issueCommand_command hi⟩

end Sys2Proof.Machine

/-! The solver's prescale choice (R121) and the command `SOLVE` (R140). The scan fails exactly when the target reaches
the clock; a solution fits the fields of R135, so packing it cuts nothing. -/

namespace Sys2Proof.Machine

/-! ### The prescale -/

/-- A solution's prescale is one less than what the scan found (R121, R129). -/
theorem findPrescale_of_solve {ref r c b : Nat} {p : Solution} (h : solve ref r c b = some p) :
    findPrescale ref (r * c * b) 64 = some (p.prescale + 1) := by
  obtain ⟨n, hn, rfl⟩ := solve_eq_some h
  obtain ⟨hpos, -, -, -⟩ := (findPrescale_eq_some _ _ _ _).1 hn
  have hprescale : (solveWith ref (r * c * b) n).prescale + 1 = n := Nat.sub_add_cancel hpos
  rw [hprescale, hn]

/-- Settles O18: by what the prescale scan returns in each of its two outcomes. -/
theorem solveTakesTheLargestPrescale : Obligations.SolveTakesTheLargestPrescale := by
  intro ref r c b _
  cases hsolve : solve ref r c b with
  | none => exact (findPrescale_eq_none _ _ _).1 ((solve_eq_none _ _ _ _).1 hsolve)
  | some p =>
    obtain ⟨hpos, hle, hhit, hlarger⟩ := (findPrescale_eq_some _ _ _ _).1 (findPrescale_of_solve hsolve)
    exact ⟨Nat.le_of_succ_le_succ hle, p.prescale + 1, rfl, hpos, hle, hhit, hlarger⟩

/-! ### Failure -/

/-- `d(n)` leaves 16 bits exactly when `A * n` reaches the clock (R121). -/
theorem le_scaledRatio_iff {ref : Nat} (href : 0 < ref) (a n : Nat) :
    2 ^ 16 ≤ scaledRatio ref a n ↔ ref ≤ a * n := by
  have hcomm : a * 2 ^ 16 * n = a * n * 2 ^ 16 := Nat.mul_right_comm a (2 ^ 16) n
  rw [scaledRatio, Nat.le_div_iff_mul_le href, hcomm]
  omega

/-- The solver fails exactly when the target reaches the clock: `n = 1` is the last and easiest to qualify (R130,
R132 (a)). -/
theorem solve_eq_none_iff_clock_le {ref : Nat} (href : 0 < ref) (r c b : Nat) :
    solve ref r c b = none ↔ ref ≤ r * c * b := by
  rw [solve_eq_none, findPrescale_eq_none]
  constructor
  · intro hall
    have hone := (le_scaledRatio_iff href (r * c * b) 1).1 (hall 1 (by decide) (by decide))
    rwa [Nat.mul_one] at hone
  · intro hreach n hpos _
    exact (le_scaledRatio_iff href (r * c * b) n).2 (hreach.trans (Nat.le_mul_of_pos_right _ hpos))

/-! ### A solution fits its fields -/

theorem clamp_le {lo hi : Nat} (h : lo ≤ hi) (v : Nat) : clamp v lo hi ≤ hi :=
  max_le h (min_le_left hi v)

/-- The values that the fields of a table entry hold (R24). -/
structure Solution.Fits (p : Solution) : Prop where
  prescale : p.prescale < 2 ^ 6
  fastX : p.fastX < 2 ^ 8
  fastY : p.fastY < 2 ^ 8
  slowX : p.slowX < 2 ^ 8
  slowY : p.slowY < 2 ^ 8

/-- Every solution fits: the numerators by their clamp, the denominators by the scan's range (R123, R127). -/
theorem solve_fits {ref r c b : Nat} {p : Solution} (h : solve ref r c b = some p) : p.Fits := by
  obtain ⟨hprescale, hdivider, hp⟩ := solve_parts h
  obtain ⟨hup, hdown⟩ := scan_isBest hdivider
  have hfastY : p.fastY ≤ 255 := by
    rw [hp]
    exact (denominatorOf_range hup).2
  have hslowY : p.slowY ≤ 255 := by
    rw [hp]
    exact (denominatorOf_range hdown).2
  have hfastX : p.fastX ≤ 255 := by
    rw [hp]
    exact clamp_le (by decide) _
  have hslowX : p.slowX ≤ 255 := by
    rw [hp]
    exact clamp_le (by decide) _
  exact ⟨hprescale, Nat.lt_succ_of_le hfastX, Nat.lt_succ_of_le hfastY, Nat.lt_succ_of_le hslowX,
    Nat.lt_succ_of_le hslowY⟩

/-- `PackA` of a solution that fits (R135). -/
theorem packA_toNat {p : Solution} (hp : p.Fits) :
    (packA (profileOf (some p))).toNat = 2 ^ 31 + p.prescale * 2 ^ 16 + p.fastX * 2 ^ 8 + p.fastY := by
  obtain ⟨hprescale, hfastX, hfastY, -, -⟩ := hp
  simp only [packA, profileOf, if_true, BitVec.toNat_ofNat, Nat.mod_eq_of_lt hprescale, Nat.mod_eq_of_lt hfastX,
    Nat.mod_eq_of_lt hfastY]
  omega

/-- `PackB` of a solution that fits (R135). -/
theorem packB_toNat {p : Solution} (hp : p.Fits) :
    (packB (profileOf (some p))).toNat = p.slowX * 2 ^ 8 + p.slowY := by
  obtain ⟨-, -, -, hslowX, hslowY⟩ := hp
  simp only [packB, profileOf, if_true, BitVec.toNat_ofNat, Nat.mod_eq_of_lt hslowX, Nat.mod_eq_of_lt hslowY]
  omega

/-! ### The command -/

/-- `channelCount` is the low byte of `ARG1` (R97). -/
theorem channelCountOperand_eq (s : State) : channelCountOperand s = s.arg1.toNat % 256 := by
  simp [channelCountOperand]

/-- `bitsPerSample` is the high byte of `ARG1` (R97). -/
theorem bitsPerSampleOperand_eq (s : State) : bitsPerSampleOperand s = s.arg1.toNat / 256 := by
  have hlt : s.arg1.toNat / 256 < 256 := by
    have := s.arg1.isLt
    omega
  simp [bitsPerSampleOperand, Nat.shiftRight_eq_div_pow, Nat.mod_eq_of_lt hlt]

theorem exec_solve (s : State) :
    exec .solve s = .next (reportSolution
      (solve s.conf.refClkHz s.arg0.toNat (s.arg1.toNat % 256) (s.arg1.toNat / 256)) s) := by
  rw [← channelCountOperand_eq, ← bitsPerSampleOperand_eq]
  rfl

/-- The report of a failure (R140). -/
theorem reportSolution_none (s : State) :
    reportSolution none s = { s with
      res0 := 0, res1 := 0, event := s.event ||| 0b000001#6, cstat := .noValidDivider } := rfl

/-- The report of a solution (R140). -/
theorem reportSolution_some (p : Solution) (s : State) :
    reportSolution (some p) s = { s with
      res0 := packA (profileOf (some p)), res1 := packB (profileOf (some p)), cstat := .ok } := rfl

/-- The word of `SOLVE` decodes to it for every depth (R92, R96). -/
theorem decode_solve (depth : Nat) : decode depth 0x00000002#32 = .command .solve :=
  (decode_eq_command depth _ _).2 ⟨.solve, rfl, by decide, by simp, rfl⟩

/-- Settles O23: by when the solver fails, then by its report of a failure and of a solution that fits. -/
theorem solveCommandReportsTheSolution : Obligations.SolveCommandReportsTheSolution := by
  intro s channels bits
  have hfails := solve_eq_none_iff_clock_le s.conf.refClk_pos s.arg0.toNat channels bits
  refine ⟨decode_solve _, ?_⟩
  rw [exec_solve]
  split_ifs with hreach
  · rw [hfails.2 hreach, reportSolution_none]
  · obtain ⟨p, hsolve⟩ := Option.ne_none_iff_exists'.1 (mt hfails.1 hreach)
    have hfits := solve_fits hsolve
    refine ⟨p, _, _, hsolve, ?_, packA_toNat hfits, packB_toNat hfits⟩
    rw [hsolve, reportSolution_some]

end Sys2Proof.Machine

/-! The write path: `BUF_RESET` (R157) and `SUBMIT` (R152 to R154). What an accepted packet leaves is said once, in
`Accepted`; under the invariants the tail copy stays inside `storage` and no narrowing to 16 bits loses a bit. -/

namespace Sys2Proof

/-! ### The words and the window -/

/-- The window starts inside the 32-bit offsets (R60). -/
theorem Config.storageBase_lt (c : Config) : c.storageBase < 2 ^ 32 := by
  have hcap := c.four_le_cap 0
  have htwice := c.two_mul_cap_le 0
  have hwindow := c.window_lt
  omega

/-- The word of `BUF_RESET` decodes to it for every depth (R92, R96). -/
theorem decode_bufReset (depth : Nat) : decode depth 0x00000007#32 = .command .bufReset :=
  (decode_eq_command depth _ _).2 ⟨.bufReset, rfl, by decide, by simp, rfl⟩

/-- The word of `SUBMIT` as a number (R94). -/
theorem encode_submit_toNat (l : BitVec 16) : (encode (.submit l)).toNat = 8 + l.toNat * 256 := encode_toNat (.submit l)

/-- The length field of the word of `SUBMIT` is the length (R94, R97). -/
theorem lenField_encode_submit (l : BitVec 16) : lenField (encode (.submit l)) = l := by
  apply BitVec.eq_of_toNat_eq
  have := l.isLt
  rw [lenField_toNat, encode_submit_toNat]
  omega

/-- The word of `SUBMIT` decodes to it for every depth and length (R94, R96). -/
theorem decode_encode_submit (depth : Nat) (l : BitVec 16) :
    decode depth (encode (.submit l)) = .command (.submit l) := by
  have hword := encode_submit_toNat l
  have hlen := l.isLt
  refine (decode_eq_command depth _ _).2 ⟨.submit, ?opcode, ?reserved, by simp, ?command⟩
  case opcode =>
    rw [hword, opCode]
    omega
  case reserved =>
    rw [hword, formatOf, usedBits]
    omega
  case command => rw [assemble, lenField_encode_submit]

end Sys2Proof

namespace Sys2Proof.Machine

/-! ### `BUF_RESET` -/

theorem exec_bufReset (s : State) : exec .bufReset s = .next (bufReset s) := rfl

/-- Settles O31: the indices that a second `BUF_RESET` zeroes are 0 already. -/
theorem bufResetIsIdempotent : Obligations.BufResetIsIdempotent := by
  intro s t
  have hagain : bufReset t = t := bufReset_eq_self rfl rfl rfl
  refine ⟨decode_bufReset _, exec_bufReset s, ?_, stor_bufReset s⟩
  rw [exec_bufReset, hagain]

/-! ### `NEXT_WR` -/

/-- No command moves the window, so `NEXT_WR` after it is counted from the same base (R46). -/
theorem regRead_nextWr_of_exec {i : Instr} {s t : State} (h : exec i s = .next t) :
    regRead t .nextWr = BitVec.ofNat 32 (s.conf.storageBase + t.writeIndex.toNat) := by
  obtain ⟨hconf, -⟩ := exec_port_frame h
  rw [regRead, hconf]

/-! ### The overrun -/

/-- An overrun zeroes the indices, sets `EVENT.OVR` and changes nothing else (R153). -/
theorem overrun_eq (s : State) :
    overrun s = { s with count := 0, writeIndex := 0, readIndex := 0, event := s.event ||| 0b000100#6 } := by
  rw [overrun, raise, eventBit_bufferOverrun, bufReset]

theorem stor_overrun (s : State) (k : Nat) : stor (overrun s) k = stor s k := rfl

/-- After an overrun the next packet goes to the start of the window (R46, R153). -/
theorem nextWr_overrun (s : State) : (regRead (overrun s) .nextWr).toNat = s.conf.storageBase := by
  have hword : regRead (overrun s) .nextWr = BitVec.ofNat 32 s.conf.storageBase := rfl
  rw [hword, BitVec.toNat_ofNat, Nat.mod_eq_of_lt s.conf.storageBase_lt]

/-! ### The accepted packet -/

/-- What an accepted packet of `l` bytes makes of `s` (R152 steps 4 to 6). -/
structure Accepted (l : Nat) (s t : State) : Prop where
  frame : t = { s with count := t.count, writeIndex := t.writeIndex, storage := t.storage }
  count : t.count.toNat = s.count.toNat + l
  linear : s.writeIndex.toNat + l < s.capacity.toNat →
    t.writeIndex.toNat = s.writeIndex.toNat + l ∧ t.storage = s.storage
  wrapped : s.capacity.toNat ≤ s.writeIndex.toNat + l →
    t.writeIndex.toNat = s.writeIndex.toNat + l - s.capacity.toNat ∧
    ∀ k, stor t k =
      if k < s.writeIndex.toNat + l - s.capacity.toNat then stor s (s.capacity.toNat + k) else stor s k

/-- A number up to the capacity keeps its value in the 16 bits of an index. -/
theorem toNat_ofNat_of_le_capacity {s : State} {n : Nat} (h : n ≤ s.capacity.toNat) :
    (BitVec.ofNat 16 n).toNat = n := by
  rw [BitVec.toNat_ofNat, Nat.mod_eq_of_lt (h.trans_lt s.capacity.isLt)]

/-- The write index lies inside the active region, or is 0 with no capacity (R31 (b)). -/
theorem writeIndex_le_capacity {s : State} (hinv : BufferInv s) : s.writeIndex.toNat ≤ s.capacity.toNat := by
  obtain ⟨-, hinside, hempty⟩ := hinv
  rcases Nat.eq_zero_or_pos s.capacity.toNat with hzero | hpos
  · simp [(hempty hzero).1]
  · exact (hinside hpos).1.le

theorem accepted_acceptLinear {l : Nat} {s : State} (hfit : s.count.toNat + l ≤ s.capacity.toNat)
    (hbelow : s.writeIndex.toNat + l < s.capacity.toNat) :
    Accepted l s (acceptLinear (s.count.toNat + l) (s.writeIndex.toNat + l) s) where
  frame := rfl
  count := toNat_ofNat_of_le_capacity hfit
  linear _ := ⟨toNat_ofNat_of_le_capacity hbelow.le, rfl⟩
  wrapped hreach := absurd hbelow hreach.not_gt

/-- The tail is no longer than the capacity, so it is copied from bytes that the copy does not write (R154). -/
theorem accepted_acceptWrapped {l : Nat} {s : State} (hinv : BufferInv s)
    (hfit : s.count.toNat + l ≤ s.capacity.toNat) (hreach : s.capacity.toNat ≤ s.writeIndex.toNat + l) :
    Accepted l s (acceptWrapped (s.count.toNat + l) (s.writeIndex.toNat + l) s) := by
  have hwrite := writeIndex_le_capacity hinv
  have htail : s.writeIndex.toNat + l - s.capacity.toNat ≤ s.capacity.toNat := by omega
  exact {
    frame := rfl
    count := toNat_ofNat_of_le_capacity hfit
    linear := fun hbelow => absurd hbelow hreach.not_gt
    wrapped := fun _ => ⟨toNat_ofNat_of_le_capacity htail, stor_acceptWrapped htail⟩ }

/-- Under the invariants every packet that fits is accepted: with the buffer twice in `storage`, there is room for the
tail (R29, R152). -/
theorem exec_submit_accepts {s : State} {l : BitVec 16} (hinv : BufferInv s) (htwice : FitsTwice s)
    (hfit : s.count.toNat + l.toNat ≤ s.capacity.toNat) :
    ∃ t, exec (.submit l) s = .next t ∧ Accepted l.toNat s t := by
  rcases Nat.lt_or_ge (s.writeIndex.toNat + l.toNat) s.capacity.toNat with hbelow | hreach
  · exact ⟨_, submitPacket_linear hfit hbelow, accepted_acceptLinear hfit hbelow⟩
  · have hwrite := writeIndex_le_capacity hinv
    have hroom : s.writeIndex.toNat + l.toNat ≤ s.conf.storageSize := by omega
    exact ⟨_, submitPacket_wrapped hfit hreach hroom, accepted_acceptWrapped hinv hfit hreach⟩

/-- Settles O33: by the overrun, and by the accepted packet whose advanced count is the capacity. -/
theorem overrunResetsTheWholeBuffer : Obligations.OverrunResetsTheWholeBuffer := by
  intro s l
  refine ⟨fun hover => ?overrun, fun hinv htwice hexact => ?exactFill⟩
  case overrun =>
    exact ⟨overrun s, exec_submit_of_overrun hover, overrun_eq s, stor_overrun s, nextWr_overrun s⟩
  case exactFill =>
    obtain ⟨t, hexec, hacc⟩ := exec_submit_accepts hinv htwice hexact.le
    have hfull : t.count = s.capacity := BitVec.eq_of_toNat_eq (hacc.count.trans hexact)
    have hevent : t.event = s.event := by rw [hacc.frame]
    exact ⟨t, hexec, hfull, hevent⟩

/-- Settles O34: the word by its decoding, then the two outcomes of the overrun test, then `NEXT_WR`. -/
theorem submitFollowsItsPseudocode : Obligations.SubmitFollowsItsPseudocode := by
  intro s l
  refine ⟨decode_encode_submit _ l, fun hover => ?overrun, fun hinv htwice hfit => ?accepted,
    fun t hexec => regRead_nextWr_of_exec hexec⟩
  case overrun => rw [exec_submit_of_overrun hover, overrun_eq]
  case accepted =>
    obtain ⟨t, hexec, hacc⟩ := exec_submit_accepts hinv htwice hfit
    refine ⟨t, hexec, hacc.frame, hacc.count, ?_⟩
    split_ifs with hreach
    · exact hacc.wrapped hreach
    · exact hacc.linear (Nat.lt_of_not_le hreach)

end Sys2Proof.Machine

/-! The drain path: `DRAIN` while the stream is stopped, and the hysteresis step after the slots of an effective
`DRAIN`. -/

namespace Sys2Proof.Machine

/-- Settles O38: `DRAIN` is masked while `run = 0`. -/
theorem maskedDrainDoesNothing : Obligations.MaskedDrainDoesNothing :=
  fun _ n hrun => exec_drain_of_not_running hrun n

/-- While streaming, `DRAIN n` is its slots and then one hysteresis step on the state they left (R171, R174). -/
theorem exec_drain_of_running {s t : State} {n : BitVec 4} (hrun : s.run = true) (hexec : exec (.drain n) s = .next t) :
    ∃ u, drainSlots n.toNat s = .next u ∧ t = hysteresis u := by
  rcases execDrain_cases hexec with ⟨hstopped, -⟩ | ⟨-, hplayed⟩
  · simp [hrun] at hstopped
  · exact hplayed

/-- The slots leave the speed mode, the active divider, and the table entry that the hysteresis step reads (R171). -/
theorem drainSlots_keeps_speed {n : Nat} {s u : State} (hslots : drainSlots n s = .next u) :
    u.mode = s.mode ∧ u.actX = s.actX ∧ u.actY = s.actY ∧ u.actPrescale = s.actPrescale ∧
    u.prof.get u.rateIndex = s.prof.get s.rateIndex := by
  obtain ⟨hframe, -, -⟩ := drainSlots_frame hslots
  rw [hframe]
  exact ⟨rfl, rfl, rfl, rfl, rfl⟩

/-- Settles O40: the slots keep the mode and the divider, so each row of the hysteresis step is read from the state
before the command; in each row the other three fail by the mode or by the watermark. -/
theorem hysteresisStateMachine : Obligations.HysteresisStateMachine := by
  intro s t n hrun hexec
  obtain ⟨u, hslots, rfl⟩ := exec_drain_of_running hrun hexec
  obtain ⟨hmode, hactX, hactY, hprescale, hentry⟩ := drainSlots_keeps_speed hslots
  rw [← hmode, ← hactX, ← hactY, ← hprescale, ← hentry]
  rcases hysteresis_cases u with ⟨hm, hhigh, hrow⟩ | ⟨hm, hbelow, hrow⟩ | ⟨hm, hlow, hrow⟩ | ⟨hm, habove, hrow⟩
  case inl => simp [hrow, hm, hhigh.not_gt]
  case inr.inl => simp [hrow, hm, hbelow.not_ge]
  case inr.inr.inl => simp [hrow, hm, hlow.not_ge]
  case inr.inr.inr => simp [hrow, hm, habove.not_gt]

end Sys2Proof.Machine

/-! Stream control: `GET_RATE` (R192), `STREAM_START` (R193) and `STREAM_STOP` (R194). Their words have no operand, so
each is its operation code alone, and the decoder reads every such word in one way. -/

namespace Sys2Proof

theorem opCode_lt (o : Op) : opCode o < 2 ^ 8 := by cases o <;> decide

/-- The word of a command without operands is its operation code, and decodes to it for every depth (R92, R96). -/
theorem decode_opCode_of_noOperand {o : Op} (hformat : formatOf o = .Z) (depth : Nat) :
    decode depth (BitVec.ofNat 32 (opCode o)) = .command (assemble o (BitVec.ofNat 32 (opCode o))) := by
  have hcode := opCode_lt o
  have hword : (BitVec.ofNat 32 (opCode o)).toNat = opCode o := by
    rw [BitVec.toNat_ofNat]
    omega
  have hnotDrain : o ≠ .drain := by
    rintro rfl
    cases hformat
  refine (decode_eq_command depth _ _).2 ⟨o, ?opcode, ?reserved, fun ⟨hdrain, _⟩ => hnotDrain hdrain, rfl⟩
  case opcode =>
    rw [hword]
    omega
  case reserved => rwa [hword, hformat]

theorem decode_getRate (depth : Nat) : decode depth 0x00000004#32 = .command .getRate :=
  decode_opCode_of_noOperand (o := .getRate) rfl depth

theorem decode_streamStart (depth : Nat) : decode depth 0x00000005#32 = .command .streamStart :=
  decode_opCode_of_noOperand (o := .streamStart) rfl depth

theorem decode_streamStop (depth : Nat) : decode depth 0x00000006#32 = .command .streamStop :=
  decode_opCode_of_noOperand (o := .streamStop) rfl depth

/-- Every rate fits the 24-bit form (R10, R192). -/
theorem Config.rate_lt_24bit : ∀ i : Fin 7, Config.rate i < 2 ^ 24 := by decide

end Sys2Proof

namespace Sys2Proof.Machine

/-! ### `GET_RATE` -/

/-- `GET_RATE` answers in `RES0`, reports success, and changes nothing else (R192). -/
theorem exec_getRate (s : State) :
    exec .getRate s = .next { s with res0 := BitVec.ofNat 32 (Config.rate s.rateIndex), cstat := .ok } := rfl

/-- The low three bytes of a word below `2^24` are all of it. -/
theorem low24_toNat_of_lt {v : Word} (hv : v.toNat < 2 ^ 24) : (v.extractLsb' 0 24).toNat = v.toNat := by
  rw [BitVec.extractLsb'_toNat, Nat.shiftRight_zero, Nat.mod_eq_of_lt hv]

/-- Settles O28: the answer is the current rate, and every rate is below `2^24`. -/
theorem getRateAnswersTheCurrentRate : Obligations.GetRateAnswersTheCurrentRate := by
  intro s
  obtain ⟨t, hexec, hres⟩ := exec_getRate_res0 s
  obtain rfl := Host.Outcome.next.inj ((exec_getRate s).symm.trans hexec)
  have hlow := low24_toNat_of_lt (hres.trans_lt (Config.rate_lt_24bit s.rateIndex))
  exact ⟨_, decode_getRate _, exec_getRate s, hres.trans (rate_eq_getD _), hlow⟩

/-! ### `STREAM_START` -/

/-- With a profile loaded `STREAM_START` resets the buffer, runs the stream and turns the amplifier on (R193). -/
theorem exec_streamStart_of_cfg {s : State} (hcfg : s.cfg = true) :
    exec .streamStart s = .next { bufReset s with run := true, ampEn := true } := by
  simp [exec, execStreamStart, hcfg]

/-- Settles O29: by whether a profile is loaded; the outputs follow `run`. -/
theorem streamStartRunsOnlyWithAProfile : Obligations.StreamStartRunsOnlyWithAProfile := by
  intro s
  refine ⟨decode_streamStart _, fun hcfg => ?accepted, fun hcfg => ?refused⟩
  case accepted => exact ⟨exec_streamStart_of_cfg hcfg, rfl, rfl⟩
  case refused => rw [exec_streamStart_of_not_cfg hcfg, raise, eventBit_illegalCommand]

/-! ### `STREAM_STOP` -/

/-- `STREAM_STOP` has no test: it resets the buffer, stops the stream and turns the amplifier off (R194). -/
theorem exec_streamStop (s : State) :
    exec .streamStop s = .next { bufReset s with run := false, ampEn := false } := rfl

/-- Settles O30: the stream it leaves is stopped, so the outputs are 0 and `DRAIN` is masked. -/
theorem streamStopMasksTheDrain : Obligations.StreamStopMasksTheDrain := by
  intro s t
  have hrun : t.run = false := rfl
  exact ⟨decode_streamStop _, exec_streamStop s, hrun, hrun, fun n => exec_drain_of_not_running hrun n⟩

end Sys2Proof.Machine

/-! Decoding and encoding agree (R90 to R97, R101, R103). A command belongs to one operation; under a known operation
the decoder's tests are about the word as a number, and so is the match with the operation's row of R96. -/

namespace Sys2Proof

/-- The operation of a command (R96). -/
def Instr.op : Instr → Op
  | .init => .init
  | .solve => .solve
  | .setRate _ => .setRate
  | .getRate => .getRate
  | .streamStart => .streamStart
  | .streamStop => .streamStop
  | .bufReset => .bufReset
  | .submit _ => .submit
  | .drain _ => .drain

@[simp] theorem op_assemble (o : Op) (c : Word) : (assemble o c).op = o := by cases o <;> rfl

/-! ### The word of a command -/

/-- The bit `fmt` of a word (R93). -/
theorem fmtBit_fmtField (c : Word) : fmtBit (fmtField c) = c.toNat / 256 % 2 := by
  rw [fmtField_eq]
  split_ifs with hbit
  · exact hbit.symm
  · rw [Nat.mod_two_ne_one.1 hbit]
    rfl

theorem fmtBit_lt (fmt : RateFormat) : fmtBit fmt < 2 := by cases fmt <;> decide

/-- The word of a command holds its operation code (R91, R101). -/
theorem encode_opCode (i : Instr) : (encode i).toNat % 256 = opCode i.op := by
  rw [encode_toNat]
  cases i with
  | setRate _ | submit _ | drain _ => exact Nat.add_mul_mod_self_right _ _ 256
  | _ => rfl

/-- The word of a command keeps its reserved bits 0 (R92 to R95). -/
theorem encode_lt_usedBits (i : Instr) : (encode i).toNat < 2 ^ usedBits (formatOf i.op) := by
  rw [encode_toNat]
  cases i with
  | setRate fmt =>
    have := fmtBit_lt fmt
    simp only [Instr.op, formatOf, usedBits]
    omega
  | submit len =>
    have := len.isLt
    simp only [Instr.op, formatOf, usedBits]
    omega
  | drain n =>
    have := n.isLt
    simp only [Instr.op, formatOf, usedBits]
    omega
  | _ => decide

/-- The fields of a command's word are its operands (R97). -/
theorem assemble_encode (i : Instr) : assemble i.op (encode i) = i := by
  cases i with
  | setRate fmt => cases fmt <;> rfl
  | submit len => exact congrArg Instr.submit (lenField_encode_submit len)
  | drain n =>
    refine congrArg Instr.drain (BitVec.eq_of_toNat_eq ?_)
    have := n.isLt
    rw [slotField_toNat, encode_toNat]
    dsimp only
    omega
  | _ => rfl

/-- What is well formed is a slot count within the FIFO, and nothing else (R95, R98 (c)). -/
theorem wellFormed_iff (depth : Nat) (i : Instr) :
    i.wellFormed depth = true ↔ ¬(i.op = .drain ∧ depth < (encode i).toNat / 256 % 16) := by
  cases i with
  | drain n =>
    have hslots : (9 + n.toNat * 256) / 256 % 16 = n.toNat := by
      have := n.isLt
      omega
    rw [encode_toNat]
    simp [Instr.wellFormed, Instr.op, hslots]
  | _ => simp [Instr.wellFormed, Instr.op]

/-- Settles O1: the command's word passes each test of the decoder, and its fields give the command back. -/
theorem decodeInvertsEncode : Obligations.DecodeInvertsEncode := by
  intro depth i hwf
  exact (decode_eq_command depth _ i).2
    ⟨i.op, encode_opCode i, encode_lt_usedBits i, (wellFormed_iff depth i).1 hwf, (assemble_encode i).symm⟩

/-! ### The command of a word -/

/-- A word whose operation code and reserved bits are those of an operation is the word of the command it assembles to:
no bit is dropped (R91 to R95, R101). -/
theorem encode_assemble {o : Op} {c : Word} (hcode : c.toNat % 256 = opCode o)
    (hused : c.toNat < 2 ^ usedBits (formatOf o)) : encode (assemble o c) = c := by
  apply BitVec.eq_of_toNat_eq
  rw [encode_toNat]
  cases o with
  | setRate =>
    have hused : c.toNat < 2 ^ 9 := hused
    have hcode : c.toNat % 256 = 3 := hcode
    show 3 + fmtBit (fmtField c) * 256 = c.toNat
    rw [fmtBit_fmtField]
    omega
  | submit =>
    have hused : c.toNat < 2 ^ 24 := hused
    have hcode : c.toNat % 256 = 8 := hcode
    show 8 + (lenField c).toNat * 256 = c.toNat
    rw [lenField_toNat]
    omega
  | drain =>
    simp only [opCode, formatOf, usedBits, assemble, slotField_toNat] at hcode hused ⊢
    omega
  | _ =>
    simp only [opCode, formatOf, usedBits, assemble] at hcode hused ⊢
    omega

/-- Settles O2: a decoded word passed the tests that make it the word of its command. -/
theorem decodedWordIsTheCommandsWord : Obligations.DecodedWordIsTheCommandsWord := by
  intro depth c i hdecode
  obtain ⟨o, hcode, hused, hslots, rfl⟩ := (decode_eq_command depth c i).1 hdecode
  have hword : encode (assemble o c) = c := encode_assemble hcode hused
  refine ⟨hword, (wellFormed_iff depth _).2 ?_⟩
  rwa [op_assemble, hword]

/-! ### The rows of the opcode map -/

/-- The commands of a row are those of one operation. -/
theorem rowOf_eq_iff (i j : Instr) : rowOf j = rowOf i ↔ j.op = i.op := by
  cases i <;> cases j <;> simp [rowOf, Instr.op]

theorem rowOf_mnemonic_drain (i : Instr) : (rowOf i).mnemonic = "DRAIN" ↔ i.op = .drain := by
  cases i <;> simp [rowOf, Instr.op]

/-- The pattern of a row is its operation code. -/
theorem rowOf_pattern (i : Instr) : (rowOf i).pattern = BitVec.ofNat 32 (opCode i.op) := by cases i <;> rfl

/-- The reserved bits of each format with the operation code's byte. -/
theorem reservedBits_or_opByte (f : Format) :
    reservedBits f ||| 0xFF#32 =
      match f with
      | .Z => 0xFFFFFFFF#32
      | .F => 0xFFFFFEFF#32
      | .L => 0xFF0000FF#32
      | .N => 0xFFFFF0FF#32 := by
  cases f <;> decide

/-- The mask of a row is the reserved bits of its format and the operation code's byte. -/
theorem rowOf_mask (i : Instr) : (rowOf i).mask = reservedBits (formatOf i.op) ||| 0xFF#32 := by
  rw [reservedBits_or_opByte]
  cases i <;> rfl

/-- The reserved bits lie above the operation code's byte (R91). -/
theorem reservedBits_and_opByte (f : Format) : reservedBits f &&& 0xFF#32 = 0#32 := by
  cases f <;> decide

/-- A masked comparison splits along two disjoint parts of the mask when the pattern lies in one of them. -/
theorem and_or_eq_iff {w : Nat} {c r f p : BitVec w} (hdisjoint : r &&& f = 0#w) (hp : p &&& f = p) :
    c &&& (r ||| f) = p ↔ c &&& r = 0#w ∧ c &&& f = p := by
  have hpr : p &&& r = 0#w := by rw [← hp, BitVec.and_assoc, BitVec.and_comm f, hdisjoint, BitVec.and_zero]
  have habsorb (x y : BitVec w) : (x ||| y) &&& x = x := by
    ext k hk
    simp +contextual
  constructor
  · rintro rfl
    rw [BitVec.and_assoc] at hp hpr
    rw [habsorb] at hpr
    rw [BitVec.or_comm, habsorb] at hp
    exact ⟨hpr, by rw [hp, BitVec.or_comm]⟩
  · rintro ⟨hr, hf⟩
    calc c &&& (r ||| f) = (c &&& r) ||| (c &&& f) := by
          ext k hk
          simp [Bool.and_or_distrib_left]
      _ = p := by rw [hr, hf, BitVec.zero_or]

/-- The low byte of a word is its number modulo 256. -/
theorem and_opByte_toNat (c : Word) : (c &&& 0xFF#32).toNat = c.toNat % 256 := by
  rw [BitVec.toNat_and]
  exact Nat.and_two_pow_sub_one_eq_mod c.toNat 8

/-- A word matches the row of an operation exactly when it holds the operation's code and keeps the reserved bits 0
(R96). -/
theorem and_mask_eq_pattern_iff (c : Word) (i : Instr) :
    c &&& (rowOf i).mask = (rowOf i).pattern ↔
      c.toNat % 256 = opCode i.op ∧ c.toNat < 2 ^ usedBits (formatOf i.op) := by
  have hcode := opCode_lt i.op
  have hnat : (BitVec.ofNat 32 (opCode i.op)).toNat = opCode i.op := by
    rw [BitVec.toNat_ofNat]
    omega
  have hpattern : BitVec.ofNat 32 (opCode i.op) &&& 0xFF#32 = BitVec.ofNat 32 (opCode i.op) := by
    apply BitVec.eq_of_toNat_eq
    rw [and_opByte_toNat, hnat]
    omega
  rw [rowOf_mask, rowOf_pattern, and_or_eq_iff (reservedBits_and_opByte _) hpattern, reserved_eq_zero,
    ← BitVec.toNat_inj, and_opByte_toNat, hnat, and_comm]

/-- Settles O3: the decoder's tests for the row's operation are the match with the row and the slot count's bound. -/
theorem wordSpellsTheRowItMatches : Obligations.WordSpellsTheRowItMatches := by
  intro depth c i
  rw [and_mask_eq_pattern_iff, rowOf_mnemonic_drain]
  constructor
  · rintro ⟨j, hdecode, hrow⟩
    obtain ⟨o, hcode, hused, hslots, rfl⟩ := (decode_eq_command depth c j).1 hdecode
    obtain rfl : o = i.op := by simpa using (rowOf_eq_iff i _).1 hrow
    exact ⟨⟨hcode, hused⟩, hslots⟩
  · rintro ⟨⟨hcode, hused⟩, hslots⟩
    exact ⟨assemble i.op c, (decode_eq_command depth c _).2 ⟨i.op, hcode, hused, hslots, rfl⟩,
      (rowOf_eq_iff i _).2 (op_assemble _ _)⟩

/-- Settles O5: each of the eleven words is decoded by computation, as the statement is about these words alone. -/
theorem writtenOutWordsDecode : Obligations.WrittenOutWordsDecode := by
  unfold Obligations.WrittenOutWordsDecode
  decide

end Sys2Proof

/-! The step and the port: what a request leaves to the agents (R81), what the reset input does (R240), and what the
registers and the window read as (R36 to R48, R62 to R65). -/

namespace Sys2Proof.Machine

/-! ### The agents' side of a request -/

/-- No request touches the configuration, the reset input or the requests that the agents have still to make. -/
theorem perform_port_frame {r : Request} {s t : State} (h : perform r s = .next t) :
    t.conf = s.conf ∧ t.inReset = s.inReset ∧ t.inputs = s.inputs ∧ ∀ b, queueOf b t = queueOf b s := by
  rcases perform_cases h with
    ⟨v, rfl⟩ | ⟨v, rfl⟩ | ⟨v, rfl⟩ | ⟨v, rfl⟩ | ⟨v, rfl⟩ | ⟨k, v, -, rfl⟩ | ⟨v, -, hissue⟩
  case inr.inr.inr.inr.inr.inr =>
    rcases issueCommand_cases hissue with ⟨i, -, hexec⟩ | rfl
    · obtain ⟨hconf, -, hreset, hhost, hproducer, hdrain, hinputs, -⟩ := exec_port_frame hexec
      exact ⟨hconf, hreset, hinputs, fun b => by cases b <;> assumption⟩
    · exact ⟨rfl, rfl, rfl, fun b => by cases b <;> rfl⟩
  all_goals exact ⟨rfl, rfl, rfl, fun b => by cases b <;> rfl⟩

/-- Settles O7: the step performs the request at the state whose lists are already the later ones, and no request
touches a list. -/
theorem requestsAreTakenInProgramOrder : Obligations.RequestsAreTakenInProgramOrder := by
  intro s a r q rest hinputs hreset hqueue
  have hstep := step_take hinputs hreset hqueue
  refine ⟨hstep, fun t ht => ?_⟩
  rw [hstep] at ht
  obtain ⟨-, -, hrest, hqueues⟩ := perform_port_frame ht
  have hother (b : Agent) (hb : b ≠ a) : queueOf b t = queueOf b s := by
    rw [hqueues, queueOf_setQueue_ne hb, queueOf_setInputs]
  exact ⟨by rw [hqueues, queueOf_setQueue], by simpa using hrest, hother⟩

/-- Settles O6: the step performs the write of `CMD`, which issues the decoded command. -/
theorem stepRunsTheDecodedCommand : Obligations.StepRunsTheDecodedCommand := by
  intro s a c i q rest hinputs hreset hqueue hdecode
  rw [step_take hinputs hreset hqueue, perform_cmd]
  exact issueCommand_command (by simpa using hdecode)

/-! ### The reset input -/

theorem acceptInput_take_inReset {s : State} (hreset : s.inReset = true) (a : Agent) :
    acceptInput (.take a) s = .next s := by
  simp [acceptInput, hreset]

theorem acceptInput_releaseReset_inReset {s : State} (hreset : s.inReset = true) :
    acceptInput .releaseReset s = .next (resetBlock s) := by
  simp [acceptInput, hreset]

/-- Settles O8: by what the block does with each input. -/
theorem resetInputHoldsOffRequestsThenGivesTheResetState :
    Obligations.ResetInputHoldsOffRequestsThenGivesTheResetState := by
  refine ⟨fun s rest hinputs => ?assert, fun s a rest hinputs hreset => ?held, fun s rest hinputs hreset => ?release⟩
  case assert =>
    rw [step_cons hinputs]
    rfl
  case held =>
    rw [step_cons hinputs]
    exact acceptInput_take_inReset (s := setInputs rest s) hreset a
  case release =>
    rw [step_cons hinputs]
    exact acceptInput_releaseReset_inReset (s := setInputs rest s) hreset

/-! ### What the registers read as -/

/-- A read of a register in the form of the statements: the word it answers, as a number. -/
theorem read32_reg_toNat {a : Word} {r : Reg} {s : State} {v : Nat} (hreg : regAt a = some r)
    (hv : (regRead s r).toNat = v) :
    ∃ w : Word, perform (.read32 a) s = .next { s with response := .word w } ∧ w.toNat = v :=
  ⟨regRead s r, perform_read32_reg hreg s, hv⟩

/-- A zero-extended field reads as its number. -/
theorem setWidth_32_toNat {w : Nat} (hw : w ≤ 32) (x : BitVec w) : (x.setWidth 32).toNat = x.toNat :=
  BitVec.toNat_setWidth_of_le hw

/-- `CSTAT` (R40). -/
theorem regRead_cstat_toNat (s : State) : (regRead s .cstat).toNat = completionCode s.cstat := by
  rw [regRead]
  cases s.cstat <;> rfl

theorem completionCode_eq (c : Completion) :
    completionCode c =
      match c with
      | .ok => 0
      | .noValidDivider => 1
      | .rateUnsupported => 2
      | .illegalCommand => 5 := by
  cases c <;> rfl

/-- `NEXT_WR` of an index inside `storage` does not wrap (R46, R60). -/
theorem regRead_nextWr_toNat {s : State} (hinside : s.writeIndex.toNat < s.conf.storageSize) :
    (regRead s .nextWr).toNat = s.conf.storageBase + s.writeIndex.toNat := by
  have hwindow := s.conf.window_lt
  rw [regRead, BitVec.toNat_ofNat, Nat.mod_eq_of_lt (by omega)]

/-- `REF_CLK` (R11, R41). -/
theorem regRead_refClk_toNat (s : State) : (regRead s .refClk).toNat = s.conf.refClkHz := by
  rw [regRead, BitVec.toNat_ofNat, Nat.mod_eq_of_lt s.conf.refClk_lt]

/-- Settles O13: the register at each offset, and what it reads as. -/
theorem otherRegistersReadTheirState : Obligations.OtherRegistersReadTheirState := by
  intro s reads
  have hcstat := (regRead_cstat_toNat s).trans (completionCode_eq s.cstat)
  exact ⟨read32_reg_toNat (r := .cmd) rfl rfl, read32_reg_toNat (r := .arg0) rfl rfl,
    read32_reg_toNat (r := .arg1) rfl (setWidth_32_toNat (by decide) _), read32_reg_toNat (r := .res0) rfl rfl,
    read32_reg_toNat (r := .res1) rfl rfl, read32_reg_toNat (r := .cstat) rfl hcstat,
    read32_reg_toNat (r := .event) rfl (setWidth_32_toNat (by decide) _),
    read32_reg_toNat (r := .capacity) rfl (setWidth_32_toNat (by decide) _),
    read32_reg_toNat (r := .wridx) rfl (setWidth_32_toNat (by decide) _),
    read32_reg_toNat (r := .rdidx) rfl (setWidth_32_toNat (by decide) _),
    read32_reg_toNat (r := .count) rfl (setWidth_32_toNat (by decide) _),
    fun hinside => read32_reg_toNat (r := .nextWr) rfl (regRead_nextWr_toNat hinside),
    read32_reg_toNat (r := .lastSample) rfl rfl, read32_reg_toNat (r := .refClk) rfl (regRead_refClk_toNat s)⟩

/-! ### The fields of a packed word -/

/-- A field of a word that is written as a number. -/
theorem extractLsb'_ofNat_eq {v start len : Nat} {x : BitVec len} (hv : v < 2 ^ 32)
    (hx : v / 2 ^ start % 2 ^ len = x.toNat) : (BitVec.ofNat 32 v).extractLsb' start len = x := by
  apply BitVec.eq_of_toNat_eq
  rw [BitVec.extractLsb'_toNat, BitVec.toNat_ofNat, Nat.mod_eq_of_lt hv, Nat.shiftRight_eq_div_pow, hx]

/-- `ACTIVE_DIV` (R42). -/
theorem activeDivWord_fields (s : State) :
    (activeDivWord s).extractLsb' 0 8 = s.actY ∧ (activeDivWord s).extractLsb' 8 8 = s.actX ∧
    (activeDivWord s).extractLsb' 16 6 = s.actPrescale ∧ (activeDivWord s).extractLsb' 22 10 = 0#10 := by
  have hp := s.actPrescale.isLt
  have hx := s.actX.isLt
  have hy := s.actY.isLt
  have hv : s.actPrescale.toNat * 2 ^ 16 + s.actX.toNat * 2 ^ 8 + s.actY.toNat < 2 ^ 32 := by omega
  refine ⟨extractLsb'_ofNat_eq hv ?_, extractLsb'_ofNat_eq hv ?_, extractLsb'_ofNat_eq hv ?_,
    extractLsb'_ofNat_eq hv ?_⟩
  case refine_4 => rw [BitVec.toNat_ofNat]; omega
  all_goals omega

/-- `PackA` of a valid entry (R135). -/
theorem packA_fields {p : Profile} (hvalid : p.valid = true) :
    (packA p).getLsbD 31 = true ∧ (packA p).extractLsb' 16 6 = p.prescale ∧ (packA p).extractLsb' 8 8 = p.fastX ∧
    (packA p).extractLsb' 0 8 = p.fastY ∧ (packA p).extractLsb' 22 9 = 0#9 := by
  have hp := p.prescale.isLt
  have hx := p.fastX.isLt
  have hy := p.fastY.isLt
  have hv : 2 ^ 31 + p.prescale.toNat * 2 ^ 16 + p.fastX.toNat * 2 ^ 8 + p.fastY.toNat < 2 ^ 32 := by omega
  rw [packA, if_pos hvalid]
  refine ⟨?top, extractLsb'_ofNat_eq hv ?_, extractLsb'_ofNat_eq hv ?_, extractLsb'_ofNat_eq hv ?_,
    extractLsb'_ofNat_eq hv ?zeros⟩
  case top =>
    rw [BitVec.getLsbD_ofNat, Nat.testBit_eq_decide_div_mod_eq]
    simp only [Nat.reduceLT, decide_true, Bool.true_and, decide_eq_true_eq]
    omega
  case zeros => rw [BitVec.toNat_ofNat]; omega
  all_goals omega

/-- `PackB` of a valid entry (R135). -/
theorem packB_fields {p : Profile} (hvalid : p.valid = true) :
    (packB p).extractLsb' 8 8 = p.slowX ∧ (packB p).extractLsb' 0 8 = p.slowY ∧
    (packB p).extractLsb' 16 16 = 0#16 := by
  have hx := p.slowX.isLt
  have hy := p.slowY.isLt
  have hv : p.slowX.toNat * 2 ^ 8 + p.slowY.toNat < 2 ^ 32 := by omega
  rw [packB, if_pos hvalid]
  refine ⟨extractLsb'_ofNat_eq hv ?_, extractLsb'_ofNat_eq hv ?_, extractLsb'_ofNat_eq hv ?zeros⟩
  case zeros => rw [BitVec.toNat_ofNat]; omega
  all_goals omega

/-- Both words of an entry that is not valid are 0 (R135). -/
theorem pack_not_valid {p : Profile} (hvalid : p.valid = false) : packA p = 0 ∧ packB p = 0 := by
  simp [packA, packB, hvalid]

/-- The offset of `PROF_A[i]` (R36). -/
theorem regAt_profA : ∀ i : Fin 7, regAt (BitVec.ofNat 32 (0x40 + 8 * i.val)) = some (.profA i) := by decide

/-- The offset of `PROF_B[i]` (R36). -/
theorem regAt_profB : ∀ i : Fin 7, regAt (BitVec.ofNat 32 (0x44 + 8 * i.val)) = some (.profB i) := by decide

/-- Settles O12: the register at each offset, and the fields of its word. -/
theorem dividerAndProfileRegisterLayouts : Obligations.DividerAndProfileRegisterLayouts := by
  intro s
  refine ⟨?activeDiv, fun i hvalid => ?profA, fun i hvalid => ?profB, fun i hvalid => ?invalid⟩
  case activeDiv => exact ⟨activeDivWord s, perform_read32_reg (r := .activeDiv) rfl s, activeDivWord_fields s⟩
  case profA => exact ⟨packA _, perform_read32_reg (regAt_profA i) s, packA_fields hvalid⟩
  case profB => exact ⟨packB _, perform_read32_reg (regAt_profB i) s, packB_fields hvalid⟩
  case invalid =>
    obtain ⟨hA, hB⟩ := pack_not_valid hvalid
    rw [perform_read32_reg (regAt_profA i), perform_read32_reg (regAt_profB i), regRead, regRead, hA, hB]
    exact ⟨rfl, rfl⟩

/-! ### The window -/

/-- The address of a byte of the window does not wrap, and names that byte (R60, R64). -/
theorem storageOffset_window {s : State} {k : Nat} (hk : k < s.conf.storageSize) :
    storageOffset s (BitVec.ofNat 32 (s.conf.storageBase + k)) = some k := by
  have hwindow := s.conf.window_lt
  refine (storageOffset_eq_some s _ k).2 ⟨?_, hk⟩
  rw [BitVec.toNat_ofNat, Nat.mod_eq_of_lt (by omega)]

theorem perform_read8_window {s : State} {k : Nat} (hk : k < s.conf.storageSize) :
    perform (.read8 (BitVec.ofNat 32 (s.conf.storageBase + k))) s = .next (respond (.byte (stor s k)) s) := by
  rw [perform, busRead8, storageOffset_window hk]

theorem perform_write8_window {s : State} {k : Nat} (hk : k < s.conf.storageSize) (v : Byte) :
    perform (.write8 (BitVec.ofNat 32 (s.conf.storageBase + k)) v) s = .next (storWrite k v (respond .written s)) := by
  rw [perform, busWrite8, storageOffset_window hk]

/-- Settles O15: both requests reach the byte, and read after write is the rule of `storWrite`. -/
theorem storageWindowReadsBackWrites : Obligations.StorageWindowReadsBackWrites := by
  intro s k v hk
  refine ⟨perform_read8_window hk, storWrite k v (respond .written s), perform_write8_window hk v, rfl,
    fun j => stor_storWrite k j v _, ?_⟩
  have hback : stor (storWrite k v (respond .written s)) k = v := by rw [stor_storWrite, if_pos rfl]
  have hread := perform_read8_window (s := storWrite k v (respond .written s)) hk
  rwa [hback] at hread

end Sys2Proof.Machine

/-! What each command may write, said once: its footprint. Who writes the host's registers, storage, the speed mode and
the table is then read off the footprint (R21, R38 to R40, R155, R195, R221). -/

namespace Sys2Proof.Machine

/-! ### The footprint of a command -/

/-- `s` with the fields that the command may write taken from `t`. -/
def footprint (i : Instr) (s t : State) : State :=
  match i with
  | .init => { s with prof := t.prof, tableReady := t.tableReady, event := t.event, cstat := t.cstat }
  | .solve => { s with res0 := t.res0, res1 := t.res1, event := t.event, cstat := t.cstat }
  | .setRate _ =>
    { s with
      rateIndex := t.rateIndex, capacity := t.capacity, count := t.count, writeIndex := t.writeIndex
      readIndex := t.readIndex, mode := t.mode, actPrescale := t.actPrescale, actX := t.actX, actY := t.actY
      cfg := t.cfg, event := t.event, cstat := t.cstat }
  | .getRate => { s with res0 := t.res0, cstat := t.cstat }
  | .streamStart | .streamStop =>
    { s with
      run := t.run, ampEn := t.ampEn, count := t.count, writeIndex := t.writeIndex, readIndex := t.readIndex
      event := t.event }
  | .bufReset => { s with count := t.count, writeIndex := t.writeIndex, readIndex := t.readIndex }
  | .submit _ =>
    { s with
      count := t.count, writeIndex := t.writeIndex, readIndex := t.readIndex, storage := t.storage, event := t.event }
  | .drain _ =>
    { s with
      count := t.count, readIndex := t.readIndex, lastSample := t.lastSample, txLog := t.txLog, event := t.event
      mode := t.mode, actX := t.actX, actY := t.actY }

/-- A repeated `INIT` is refused (R141). -/
theorem exec_init_of_ready {s : State} (hready : s.tableReady = true) :
    exec .init s = .next (complete .illegalCommand (raise .illegalCommand s)) := by
  simp [exec, execInit, hready]

/-- An accepted `SET_RATE` (R190, R191). -/
theorem exec_setRate_of_accepted {fmt : RateFormat} {s : State} {i : Fin 7}
    (haccepted : acceptedRate (rateOperand fmt s) s = some i) :
    exec (.setRate fmt) s = .next (complete .ok (reinit i s)) := by
  simp [exec, execSetRate, haccepted]

/-- A rejected `SET_RATE` (R191). -/
theorem exec_setRate_of_rejected {fmt : RateFormat} {s : State}
    (hrejected : acceptedRate (rateOperand fmt s) s = none) : exec (.setRate fmt) s = .next (rejectRate s) := by
  simp [exec, execSetRate, hrejected]

/-- Everything `INIT` can do (R141). -/
theorem exec_init_cases {s t : State} (h : exec .init s = .next t) :
    (s.tableReady = true ∧ t = complete .illegalCommand (raise .illegalCommand s)) ∨
    (s.tableReady = false ∧ t = installTable (buildTable s.conf.refClkHz) s) := by
  cases hready : s.tableReady with
  | true => exact .inl ⟨rfl, Host.Outcome.next.inj (h.symm.trans (exec_init_of_ready hready))⟩
  | false => exact .inr ⟨rfl, Host.Outcome.next.inj (h.symm.trans (exec_init_of_not_ready hready))⟩

/-- Everything `SET_RATE` can do (R191). -/
theorem exec_setRate_cases {fmt : RateFormat} {s t : State} (h : exec (.setRate fmt) s = .next t) :
    (∃ i, (s.prof.get i).valid = true ∧ t = complete .ok (reinit i s)) ∨ t = rejectRate s := by
  cases haccepted : acceptedRate (rateOperand fmt s) s with
  | some i =>
    obtain ⟨-, hvalid⟩ := (acceptedRate_eq_some _ s i).1 haccepted
    exact .inl ⟨i, hvalid, Host.Outcome.next.inj (h.symm.trans (exec_setRate_of_accepted haccepted))⟩
  | none => exact .inr (Host.Outcome.next.inj (h.symm.trans (exec_setRate_of_rejected haccepted)))

/-- Everything `STREAM_START` can do (R193). -/
theorem exec_streamStart_cases {s t : State} (h : exec .streamStart s = .next t) :
    (s.cfg = true ∧ t = { bufReset s with run := true, ampEn := true }) ∨
    (s.cfg = false ∧ t = raise .illegalCommand s) := by
  cases hcfg : s.cfg with
  | true => exact .inl ⟨rfl, Host.Outcome.next.inj (h.symm.trans (exec_streamStart_of_cfg hcfg))⟩
  | false => exact .inr ⟨rfl, Host.Outcome.next.inj (h.symm.trans (exec_streamStart_of_not_cfg hcfg))⟩

/-- Setting flags keeps those that are set (R220). -/
theorem event_or_keeps (s : State) (flags : BitVec 6) : (s.event ||| flags) &&& s.event = s.event := by
  ext k hk
  simp +contextual

theorem raise_event_keeps (e : Event) (s : State) : (raise e s).event &&& s.event = s.event :=
  event_or_keeps s (eventBit e)

theorem reportSolution_footprint (r : Option Solution) (s : State) :
    reportSolution r s = footprint .solve s (reportSolution r s) := by
  cases r <;> rfl

/-- The solver's report clears no event (R140). -/
theorem reportSolution_event_keeps (r : Option Solution) (s : State) :
    (reportSolution r s).event &&& s.event = s.event := by
  cases r with
  | none =>
    rw [reportSolution_none]
    exact event_or_keeps s _
  | some p =>
    rw [reportSolution_some]
    exact BitVec.and_self

theorem installTable_footprint (p : Vector Profile 7) (s : State) :
    installTable p s = footprint .init s (installTable p s) := by
  unfold installTable
  split_ifs <;> rfl

/-- The accepted `INIT` clears no event (R141). -/
theorem installTable_event_keeps (p : Vector Profile 7) (s : State) :
    (installTable p s).event &&& s.event = s.event := by
  unfold installTable
  split_ifs
  · exact BitVec.and_self
  · exact event_or_keeps s _

/-- A command that goes on writes its footprint alone and clears no event (R221). -/
theorem exec_frame_and_events {i : Instr} {s t : State} (h : exec i s = .next t) :
    t = footprint i s t ∧ t.event &&& s.event = s.event := by
  cases i with
  | init =>
    rcases exec_init_cases h with ⟨-, rfl⟩ | ⟨-, rfl⟩
    · exact ⟨rfl, raise_event_keeps .illegalCommand s⟩
    · exact ⟨installTable_footprint _ s, installTable_event_keeps _ s⟩
  | solve =>
    obtain rfl := Host.Outcome.next.inj ((exec_solve s).symm.trans h)
    exact ⟨reportSolution_footprint _ s, reportSolution_event_keeps _ s⟩
  | setRate fmt =>
    rcases exec_setRate_cases h with ⟨i, -, rfl⟩ | rfl
    · exact ⟨rfl, BitVec.and_self⟩
    · exact ⟨rfl, raise_event_keeps .rateUnsupported s⟩
  | getRate =>
    obtain rfl := Host.Outcome.next.inj ((exec_getRate s).symm.trans h)
    exact ⟨rfl, BitVec.and_self⟩
  | streamStart =>
    rcases exec_streamStart_cases h with ⟨-, rfl⟩ | ⟨-, rfl⟩
    · exact ⟨rfl, BitVec.and_self⟩
    · exact ⟨rfl, raise_event_keeps .illegalCommand s⟩
  | streamStop =>
    obtain rfl := Host.Outcome.next.inj ((exec_streamStop s).symm.trans h)
    exact ⟨rfl, BitVec.and_self⟩
  | bufReset =>
    obtain rfl := Host.Outcome.next.inj ((exec_bufReset s).symm.trans h)
    exact ⟨rfl, BitVec.and_self⟩
  | submit l =>
    rcases submitPacket_cases h with ⟨-, rfl⟩ | ⟨-, -, rfl⟩ | ⟨-, -, -, rfl⟩
    · exact ⟨rfl, raise_event_keeps .bufferOverrun s⟩
    · exact ⟨rfl, BitVec.and_self⟩
    · exact ⟨rfl, BitVec.and_self⟩
  | drain n =>
    rcases execDrain_cases h with ⟨-, rfl⟩ | ⟨-, u, hslots, rfl⟩
    · exact ⟨rfl, BitVec.and_self⟩
    · obtain ⟨hframe, -, hevent⟩ := drainSlots_frame hslots
      have hkeeps : (hysteresis u).event = u.event := by rw [hysteresis_frame]
      refine ⟨?_, by rwa [hkeeps]⟩
      rw [hysteresis_frame, hframe]
      rfl

theorem exec_footprint {i : Instr} {s t : State} (h : exec i s = .next t) : t = footprint i s t :=
  (exec_frame_and_events h).1

/-! ### What the footprints say -/

/-- Settles O50: no footprint holds the registers that the command does not write. -/
theorem whoWritesTheHostRegisters : Obligations.WhoWritesTheHostRegisters := by
  intro i s t h
  obtain ⟨hframe, hevent⟩ := exec_frame_and_events h
  refine ⟨?arg0, ?arg1, fun hsolve hget => ?res0, fun hsolve => ?res1, fun hinit hsolve hget hrate => ?cstat, hevent⟩
    <;> rw [hframe]
  case arg0 => cases i <;> rfl
  case arg1 => cases i <;> rfl
  case res0 =>
    cases i with
    | solve => exact absurd rfl hsolve
    | getRate => exact absurd rfl hget
    | _ => rfl
  case res1 =>
    cases i with
    | solve => exact absurd rfl hsolve
    | _ => rfl
  case cstat =>
    cases i with
    | init => exact absurd rfl hinit
    | solve => exact absurd rfl hsolve
    | getRate => exact absurd rfl hget
    | setRate fmt => exact absurd rfl (hrate fmt)
    | _ => rfl

/-- Only `SUBMIT` writes bytes, and no command draws the free bytes again (R155). -/
theorem exec_keeps_storage {i : Instr} {s t : State} (hi : ∀ l, i ≠ .submit l) (h : exec i s = .next t) :
    t.storage = s.storage ∧ t.resetDraw = s.resetDraw := by
  have hframe := exec_footprint h
  rw [hframe]
  cases i with
  | submit l => exact absurd rfl (hi l)
  | _ => exact ⟨rfl, rfl⟩

/-- Settles O51: a byte of storage depends on the written bytes and the draw, and no footprint but that of `SUBMIT`
holds either. -/
theorem onlySubmitWritesStorage : Obligations.OnlySubmitWritesStorage := by
  intro i s t hi h k
  obtain ⟨hstorage, hdraw⟩ := exec_keeps_storage hi h
  exact stor_congr hstorage hdraw k

/-- Settles O32: the speed mode and the active divider are in none of the four footprints. -/
theorem bufferResetsKeepTheSpeedMode : Obligations.BufferResetsKeepTheSpeedMode := by
  intro s t i hi h
  have hframe := exec_footprint h
  rw [hframe]
  rcases hi with rfl | rfl | rfl | ⟨l, rfl, -⟩ <;> exact ⟨rfl, rfl, rfl, rfl⟩

/-- Settles O41: the footprint of `DRAIN`, and the words that its slots push. -/
theorem drainFrame : Obligations.DrainFrame := by
  intro s t n h
  have hframe := exec_footprint h
  obtain ⟨hstorage, hdraw⟩ := exec_keeps_storage (by simp) h
  refine ⟨hframe, stor_congr hstorage hdraw, fun hrun => ?_⟩
  obtain ⟨u, hslots, rfl⟩ := exec_drain_of_running hrun h
  obtain ⟨-, hwords, -⟩ := drainSlots_frame hslots
  rw [hysteresis_frame]
  exact hwords

/-- Settles O53: both outputs are `run` by definition. -/
theorem interruptEnableAndClockRequestFollowRun : Obligations.InterruptEnableAndClockRequestFollowRun :=
  fun _ => ⟨rfl, rfl⟩

/-! ### The table -/

/-- A built table is in the footprint of `INIT` alone, which refuses to write it again (R25). -/
theorem exec_keeps_table {i : Instr} {s t : State} (hready : s.tableReady = true) (h : exec i s = .next t) :
    t.tableReady = true ∧ t.prof = s.prof := by
  have hframe := exec_footprint h
  cases i with
  | init =>
    rcases exec_init_cases h with ⟨-, rfl⟩ | ⟨hnot, -⟩
    · exact ⟨hready, rfl⟩
    · simp [hready] at hnot
  | _ =>
    rw [hframe]
    exact ⟨hready, rfl⟩

/-- No request writes a built table. -/
theorem perform_keeps_table {r : Request} {s t : State} (hready : s.tableReady = true) (h : perform r s = .next t) :
    t.tableReady = true ∧ t.prof = s.prof := by
  rcases perform_cases h with
    ⟨v, rfl⟩ | ⟨v, rfl⟩ | ⟨v, rfl⟩ | ⟨v, rfl⟩ | ⟨v, rfl⟩ | ⟨k, v, -, rfl⟩ | ⟨v, -, hissue⟩
  case inr.inr.inr.inr.inr.inr =>
    rcases issueCommand_cases hissue with ⟨i, -, hexec⟩ | rfl
    · exact exec_keeps_table (s := respond .written s) hready hexec
    · exact ⟨hready, rfl⟩
  all_goals exact ⟨hready, rfl⟩

/-- Settles O49: by everything a step can do; only the release of the reset input writes a built table. -/
theorem tableAndConfigurationStayFixed : Obligations.TableAndConfigurationStayFixed := by
  intro s t h
  rcases step_cases h with ⟨-, rfl⟩ | ⟨rest, rfl | rfl | ⟨hreset, rfl⟩ | ⟨a, r, q, -, -, -, hperform⟩⟩
  · exact ⟨rfl, fun hready _ => ⟨hready, rfl⟩⟩
  · exact ⟨rfl, fun hready _ => ⟨hready, rfl⟩⟩
  · exact ⟨rfl, fun hready _ => ⟨hready, rfl⟩⟩
  · exact ⟨rfl, fun _ hnot => absurd hreset (by simp [hnot])⟩
  · obtain ⟨hconf, -⟩ := perform_port_frame hperform
    refine ⟨by simpa using hconf, fun hready _ => ?_⟩
    simpa using perform_keeps_table (by simpa using hready) hperform

end Sys2Proof.Machine

/-! The results of the solver (R121 to R132) and the table that `INIT` builds from them (R141). -/

namespace Sys2Proof.Machine

/-! ### Failure -/

/-- Settles O17: the scan runs out exactly when no `n` qualifies, which is when the target reaches the clock. -/
theorem solveFailsExactlyWhenTargetReachesClock : Obligations.SolveFailsExactlyWhenTargetReachesClock := by
  intro ref r c b href
  exact ⟨(solve_eq_none _ _ _ _).trans (findPrescale_eq_none _ _ _), solve_eq_none_iff_clock_le href r c b⟩

/-! ### The denominators -/

/-- The best round-up candidate for a prescale choice `n` (R124). -/
def bestUpOf (ref a n : Nat) : Option Candidate :=
  (scanDenominators (scaledRatio ref a n) Config.yMax ⟨none, none⟩).bestUp

/-- The best round-down candidate for a prescale choice `n` (R124). -/
def bestDownOf (ref a n : Nat) : Option Candidate :=
  (scanDenominators (scaledRatio ref a n) Config.yMax ⟨none, none⟩).bestDown

theorem yMax_eq : Config.yMax = 255 := rfl

/-- Both are the best of their class over all denominators (R123, R124). -/
theorem bestOf_isBest {ref r c b : Nat} {p : Solution} (h : solve ref r c b = some p) :
    let divider := scaledRatio ref (r * c * b) (p.prescale + 1)
    IsBest (RoundsUp divider) (fun y => 0x10000 - y * divider % 2 ^ 16) 0 255
      (bestUpOf ref (r * c * b) (p.prescale + 1)) ∧
    IsBest (fun y => ¬RoundsUp divider y) (fun y => y * divider % 2 ^ 16) 0 255
      (bestDownOf ref (r * c * b) (p.prescale + 1)) := by
  obtain ⟨-, hdivider, -⟩ := solve_parts h
  rw [bestUpOf, bestDownOf, yMax_eq]
  exact scan_isBest hdivider

theorem solveWith_fastY (ref a n : Nat) : (solveWith ref a n).fastY = denominatorOf (bestUpOf ref a n) := by
  rw [bestUpOf]
  rfl

theorem solveWith_slowY (ref a n : Nat) : (solveWith ref a n).slowY = denominatorOf (bestDownOf ref a n) := by
  rw [bestDownOf]
  rfl

theorem solveWith_fastX (ref a n : Nat) :
    (solveWith ref a n).fastX = clamp (directNumerator ref a n (solveWith ref a n).fastY + 1) 1 255 := rfl

theorem solveWith_slowX (ref a n : Nat) :
    (solveWith ref a n).slowX = clamp (directNumerator ref a n (solveWith ref a n).slowY) 1 255 := rfl

/-- A solution's denominators are those of the best candidates of its own divider, its numerators the clamped direct
ones (R122 to R128). -/
theorem solve_fields {ref r c b : Nat} {p : Solution} (h : solve ref r c b = some p) :
    p.fastY = denominatorOf (bestUpOf ref (r * c * b) (p.prescale + 1)) ∧
    p.slowY = denominatorOf (bestDownOf ref (r * c * b) (p.prescale + 1)) ∧
    p.fastX = clamp (directNumerator ref (r * c * b) (p.prescale + 1) p.fastY + 1) 1 255 ∧
    p.slowX = clamp (directNumerator ref (r * c * b) (p.prescale + 1) p.slowY) 1 255 := by
  obtain ⟨-, -, hp⟩ := solve_parts h
  generalize p.prescale + 1 = n at hp ⊢
  rw [hp]
  exact ⟨solveWith_fastY _ _ _, solveWith_slowY _ _ _, solveWith_fastX _ _ _, solveWith_slowX _ _ _⟩

/-- With a member in its class, the stored denominator is the best one. -/
theorem IsBest.denominatorOf_best {member : Nat → Prop} {err : Nat → Nat} {b : Option Candidate}
    (h : IsBest member err 0 255 b) (hmember : ∃ y, 1 ≤ y ∧ y ≤ 255 ∧ member y) :
    1 ≤ denominatorOf b ∧ denominatorOf b ≤ 255 ∧ member (denominatorOf b) ∧
    ∀ y, 1 ≤ y → y ≤ 255 → member y →
      err (denominatorOf b) < err y ∨ (err (denominatorOf b) = err y ∧ y ≤ denominatorOf b) := by
  cases b with
  | none =>
    obtain ⟨y, hpos, hle, hy⟩ := hmember
    exact absurd hy (h y hpos hle)
  | some c =>
    obtain ⟨hpos, hle, hc, -, hbest⟩ := h
    exact ⟨hpos, hle, hc, hbest⟩

/-- Without one, the stored denominator is 255 (R128). -/
theorem IsBest.denominatorOf_empty {member : Nat → Prop} {err : Nat → Nat} {b : Option Candidate}
    (h : IsBest member err 0 255 b) (hempty : ∀ y, 1 ≤ y → y ≤ 255 → ¬member y) : denominatorOf b = 255 := by
  cases b with
  | none => rfl
  | some c =>
    obtain ⟨hpos, hle, hc, -, -⟩ := h
    exact absurd hc (hempty c.y hpos hle)

/-- Settles O19: the scan leaves the best candidate of each class, and the denominators are theirs. -/
theorem solveKeepsTheBestDenominators : Obligations.SolveKeepsTheBestDenominators := by
  intro ref r c b p _ hsolve frac
  obtain ⟨hup, hdown⟩ := bestOf_isBest hsolve
  obtain ⟨hfastY, hslowY, -, -⟩ := solve_fields hsolve
  have hfrac (y : Nat) : frac y < 2 ^ 16 := Nat.mod_lt _ (Nat.two_pow_pos 16)
  rw [hfastY, hslowY]
  refine ⟨fun hmember => ?fast, fun hempty => ?fastEmpty, fun hmember => ?slow, fun hempty => ?slowEmpty⟩
  case fast =>
    obtain ⟨hpos, hle, hm, hbest⟩ := hup.denominatorOf_best hmember
    refine ⟨hpos, hle, hm, fun y h1 h2 h3 => (hbest y h1 h2 h3).imp id fun ⟨herr, hy⟩ => ⟨?_, hy⟩⟩
    have h1 := hfrac (denominatorOf (bestUpOf ref (r * c * b) (p.prescale + 1)))
    have h2 := hfrac y
    change 0x10000 - frac _ = 0x10000 - frac y at herr
    omega
  case fastEmpty => exact hup.denominatorOf_empty fun y h1 h2 => (hempty y h1 h2).not_gt
  case slow =>
    obtain ⟨y, hpos, hle, hy⟩ := hmember
    obtain ⟨hpos, hle, hm, hbest⟩ := hdown.denominatorOf_best ⟨y, hpos, hle, hy.not_gt⟩
    exact ⟨hpos, hle, Nat.le_of_not_lt hm, fun y h1 h2 h3 => hbest y h1 h2 h3.not_gt⟩
  case slowEmpty => exact hdown.denominatorOf_empty fun y h1 h2 => not_not.2 (hempty y h1 h2)

/-! ### The numerators -/

/-- The stored denominators are in `1 .. 255` (R132 (d)). -/
theorem solve_denominators_range {ref r c b : Nat} {p : Solution} (h : solve ref r c b = some p) :
    (1 ≤ p.fastY ∧ p.fastY ≤ 255) ∧ 1 ≤ p.slowY ∧ p.slowY ≤ 255 := by
  obtain ⟨hup, hdown⟩ := bestOf_isBest h
  obtain ⟨hfastY, hslowY, -, -⟩ := solve_fields h
  rw [hfastY, hslowY]
  exact ⟨denominatorOf_range hup, denominatorOf_range hdown⟩

/-- The upper clamp does nothing to a value that is at most its bound. -/
theorem clamp_of_le {v hi : Nat} (h : v ≤ hi) (lo : Nat) : clamp v lo hi = max lo v := by
  rw [clamp, min_eq_right h]

/-- Settles O20: a direct numerator is below its denominator, so with 1 added it is at most 255. -/
theorem solveNumeratorsNeedNoUpperClamp : Obligations.SolveNumeratorsNeedNoUpperClamp := by
  intro ref r c b p href hsolve
  obtain ⟨-, hdivider, -⟩ := solve_parts hsolve
  obtain ⟨-, -, hfastX, hslowX⟩ := solve_fields hsolve
  obtain ⟨⟨hfpos, hfle⟩, hspos, hsle⟩ := solve_denominators_range hsolve
  have hbelow := target_lt_clock href hdivider
  have hfast := directNumerator_lt hbelow hfpos
  have hslow := directNumerator_lt hbelow hspos
  rw [clamp_of_le (by omega)] at hfastX hslowX
  have hfastX' : p.fastX = directNumerator ref (r * c * b) (p.prescale + 1) p.fastY + 1 := by omega
  exact ⟨hfastX', hslowX, by omega, by omega, hfpos, hfle, by omega, by omega, hspos, hsle⟩

/-- Settles O21: a quotient plus 1 lies strictly above the exact ratio; a quotient at or below it, unless it is 0 and
forced to 1. -/
theorem fastPairIsAboveSlowPairBelowTheTarget : Obligations.FastPairIsAboveSlowPairBelowTheTarget := by
  intro ref r c b p href hsolve
  obtain ⟨hfastX, hslowX, -⟩ := solveNumeratorsNeedNoUpperClamp ref r c b p href hsolve
  have hswap (y : Nat) : r * c * b * (p.prescale + 1) * y = y * (r * c * b) * (p.prescale + 1) := by ring
  rw [hswap, hswap, hfastX, hslowX]
  refine ⟨?above, ?below⟩
  case above => exact (Nat.lt_mul_div_succ _ href).trans_eq (Nat.mul_comm _ _)
  case below =>
    rw [← Nat.le_div_iff_mul_le href]
    omega

/-- Settles O22: the first prescale qualifies; every remainder is 0, so the round-up class is empty and 255 is the
largest of the equal round-down denominators. -/
theorem zeroTargetSolves : Obligations.ZeroTargetSolves := by
  intro ref r c b href hzero
  obtain ⟨p, hsolve⟩ : ∃ p, solve ref r c b = some p :=
    Option.ne_none_iff_exists'.1 fun hnone => by
      have := (solve_eq_none_iff_clock_le href r c b).1 hnone
      omega
  obtain ⟨-, -, -, hlarger⟩ := (findPrescale_eq_some _ _ _ _).1 (findPrescale_of_solve hsolve)
  obtain ⟨hle, -, -⟩ := solve_parts hsolve
  have hprescale : p.prescale = 63 := by
    by_contra hne
    have := hlarger 64 (by omega) le_rfl
    simp [scaledRatio, hzero] at this
  obtain ⟨hfast, hfastEmpty, hslow, -⟩ := solveKeepsTheBestDenominators ref r c b p href hsolve
  obtain ⟨hfastX, hslowX, -⟩ := solveNumeratorsNeedNoUpperClamp ref r c b p href hsolve
  simp only [hzero, Nat.zero_mul, Nat.zero_div, Nat.mul_zero, Nat.zero_mod] at hfastEmpty hslow hfastX hslowX
  have hfastY : p.fastY = 255 := hfastEmpty fun _ _ _ => Nat.zero_le _
  obtain ⟨-, hslowLe, -, hbest⟩ := hslow ⟨255, by decide, le_rfl, Nat.zero_le _⟩
  have hslowY : p.slowY = 255 := by
    have := hbest 255 (by decide) le_rfl (Nat.zero_le _)
    omega
  have hp : p = ⟨p.prescale, p.fastX, p.fastY, p.slowX, p.slowY⟩ := rfl
  rw [hsolve, hp, hprescale, hfastX, hfastY, hslowX, hslowY]
  rfl

/-! ### The table -/

/-- An entry holds the solver's result: the fields are wide enough (R24, R141). -/
theorem profileOf_some_fields {p : Solution} (hp : p.Fits) :
    (profileOf (some p)).valid = true ∧ (profileOf (some p)).prescale.toNat = p.prescale ∧
    (profileOf (some p)).fastX.toNat = p.fastX ∧ (profileOf (some p)).fastY.toNat = p.fastY ∧
    (profileOf (some p)).slowX.toNat = p.slowX ∧ (profileOf (some p)).slowY.toNat = p.slowY := by
  obtain ⟨hprescale, hfastX, hfastY, hslowX, hslowY⟩ := hp
  simp only [profileOf, BitVec.toNat_ofNat]
  exact ⟨trivial, Nat.mod_eq_of_lt hprescale, Nat.mod_eq_of_lt hfastX, Nat.mod_eq_of_lt hfastY,
    Nat.mod_eq_of_lt hslowX, Nat.mod_eq_of_lt hslowY⟩

/-- The entry of a rate is the solver's result for it, two channels of 16 bits (R10, R141). -/
theorem tableEntry_eq (ref : Nat) (i : Fin 7) : tableEntry ref i = profileOf (solve ref (Config.rate i) 2 16) := rfl

/-- An entry is valid exactly when its target is below the clock (R132 (a), R141). -/
theorem tableEntry_valid_iff {ref : Nat} (href : 0 < ref) (i : Fin 7) :
    (tableEntry ref i).valid = true ↔ Config.rate i * 2 * 16 < ref := by
  have hfails := solve_eq_none_iff_clock_le href (Config.rate i) 2 16
  rw [← not_le, ← hfails, tableEntry_eq]
  cases solve ref (Config.rate i) 2 16 <;> simp [profileOf, Profile.invalid]

/-- What the accepted `INIT` reports (R141). -/
theorem installTable_report (p : Vector Profile 7) (s : State) :
    if ∀ i : Fin 7, (p.get i).valid = true then
      (installTable p s).event = s.event ∧ (installTable p s).cstat = .ok
    else (installTable p s).event = s.event ||| 0b000001#6 ∧ (installTable p s).cstat = .noValidDivider := by
  simp only [← allValid_iff, installTable]
  split_ifs <;> exact ⟨rfl, rfl⟩

theorem installTable_prof (p : Vector Profile 7) (s : State) : (installTable p s).prof = p := by
  rw [installTable_frame]

/-- Settles O24: a repeated `INIT` is refused; the first installs the table, whose entries hold the solver's results. -/
theorem initBuildsTheTableOnce : Obligations.InitBuildsTheTableOnce := by
  intro s
  split_ifs with hready
  · rw [exec_init_of_ready hready, raise, eventBit_illegalCommand, complete]
  · refine ⟨_, exec_init_of_not_ready (by simpa using hready), ?frame, fun i => ?entry, ?report⟩
    case frame =>
      rw [installTable_frame]
    case entry =>
      rw [installTable_prof, get_buildTable, ← rate_eq_getD, tableEntry_eq]
      cases hsolve : solve s.conf.refClkHz (Config.rate i) 2 16 with
      | none => rfl
      | some p => exact profileOf_some_fields (solve_fits hsolve)
    case report =>
      rw [installTable_prof]
      exact installTable_report _ s

/-- The rates rise (R10). -/
theorem rate_mono : ∀ i j : Fin 7, i ≤ j → Config.rate i ≤ Config.rate j := by decide

/-- Settles O25: an entry is valid exactly when 32 times its rate is below the clock, and the rates rise. -/
theorem initFailsOnAnUpperSegment : Obligations.InitFailsOnAnUpperSegment := by
  intro s t hready hexec
  obtain rfl := Host.Outcome.next.inj ((exec_init_of_not_ready hready).symm.trans hexec)
  simp only [installTable_prof, get_buildTable, tableEntry_valid_iff s.conf.refClk_pos]
  refine ⟨fun i j hij hj => ?segment, fun hall => hall 6, fun hclock i => ?all⟩
  case segment =>
    have := rate_mono i j hij
    omega
  case all =>
    have := rate_mono i 6 (Fin.le_last i)
    have hlast : Config.rate 6 = 48000 := rfl
    omega

end Sys2Proof.Machine

/-! `SET_RATE` (R190, R191): which rate values are accepted, and what each outcome leaves. -/

namespace Sys2Proof.Machine

/-- A capacity keeps its value in 16 bits (R12, R29). -/
theorem reinit_capacity (i : Fin 7) (s : State) : (reinit i s).capacity.toNat = s.conf.cap i := by
  show (BitVec.ofNat 16 (s.conf.cap i)).toNat = s.conf.cap i
  rw [BitVec.toNat_ofNat, Nat.mod_eq_of_lt (s.conf.cap_lt i)]

/-- Settles O26: the value is the table rate of a valid entry, so it is accepted, and `Reinit` is what it does. -/
theorem acceptedRateReinitialisesThePlayer : Obligations.AcceptedRateReinitialisesThePlayer := by
  intro s fmt i hrate hvalid
  have hoperand : rateOperand fmt s = Config.rate i := (rateOperand_eq fmt s).trans (hrate.trans (rate_eq_getD i).symm)
  have haccepted : acceptedRate (rateOperand fmt s) s = some i := (acceptedRate_eq_some _ s i).2 ⟨hoperand, hvalid⟩
  exact ⟨complete .ok (reinit i s), exec_setRate_of_accepted haccepted, reinit_capacity i s, rfl⟩

/-- Settles O27: with no table rate of a valid entry equal to the value, it is rejected. -/
theorem rejectedRateChangesNothingElse : Obligations.RejectedRateChangesNothingElse := by
  intro s fmt hno
  have hrejected : acceptedRate (rateOperand fmt s) s = none :=
    (acceptedRate_eq_none _ s).2 fun i hi => hno i ((rateOperand_eq fmt s).symm.trans (hi.trans (rate_eq_getD i)))
  rw [exec_setRate_of_rejected hrejected, rejectRate, raise, eventBit_rateUnsupported, complete]

end Sys2Proof.Machine

/-! The ring (R30, R31, R71) and the write path in it. The invariant says where `writeIndex` stands, below or above
`readIndex`; an accepted packet keeps it, and the tail copy reaches no buffered byte. -/

namespace Sys2Proof.Machine

/-! ### The invariant of the ring -/

/-- Less than two turns of the ring are reduced by at most one turn. -/
theorem mod_cases_of_lt_two_mul {a cap : Nat} (h : a < 2 * cap) :
    (a < cap ∧ a % cap = a) ∨ (cap ≤ a ∧ a % cap = a - cap) := by
  rcases Nat.lt_or_ge a cap with hlt | hge
  · exact .inl ⟨hlt, Nat.mod_eq_of_lt hlt⟩
  · exact .inr ⟨hge, by rw [Nat.mod_eq_sub_mod hge, Nat.mod_eq_of_lt (by omega)]⟩

/-- R31 with a capacity: `writeIndex` is `count` above `readIndex`, less the capacity once it reaches it. -/
theorem bufferInv_iff_of_pos {s : State} (hpos : 0 < s.capacity.toNat) :
    BufferInv s ↔
      s.count.toNat ≤ s.capacity.toNat ∧ s.writeIndex.toNat < s.capacity.toNat ∧
      s.readIndex.toNat < s.capacity.toNat ∧
      (s.readIndex.toNat + s.count.toNat = s.writeIndex.toNat ∨
        s.readIndex.toNat + s.count.toNat = s.writeIndex.toNat + s.capacity.toNat) := by
  constructor
  · rintro ⟨hcount, hinside, -⟩
    obtain ⟨hwrite, hread, hdistance⟩ := hinside hpos
    refine ⟨hcount, hwrite, hread, ?_⟩
    rcases mod_cases_of_lt_two_mul (a := s.readIndex.toNat + s.count.toNat) (cap := s.capacity.toNat) (by omega) with
      ⟨-, hmod⟩ | ⟨hge, hmod⟩ <;> omega
  · rintro ⟨hcount, hwrite, hread, hdistance⟩
    refine ⟨hcount, fun _ => ⟨hwrite, hread, ?_⟩, fun hzero => absurd hzero hpos.ne'⟩
    rcases hdistance with heq | heq
    · rw [heq, Nat.mod_eq_of_lt hwrite]
    · rw [heq, Nat.add_mod_right, Nat.mod_eq_of_lt hwrite]

/-- R31 without a capacity: all three indices are 0. -/
theorem bufferInv_iff_of_zero {s : State} (hzero : s.capacity.toNat = 0) :
    BufferInv s ↔ s.count.toNat = 0 ∧ s.writeIndex = 0 ∧ s.readIndex = 0 := by
  constructor
  · rintro ⟨hcount, -, hindices⟩
    exact ⟨by omega, hindices hzero⟩
  · rintro ⟨hcount, hindices⟩
    exact ⟨by omega, fun hpos => absurd hzero hpos.ne', fun _ => hindices⟩

/-- The empty buffer meets R31 with any capacity. -/
theorem bufferInv_of_empty {s : State} (hcount : s.count = 0) (hwrite : s.writeIndex = 0) (hread : s.readIndex = 0) :
    BufferInv s := by
  rcases Nat.eq_zero_or_pos s.capacity.toNat with hzero | hpos
  · exact (bufferInv_iff_of_zero hzero).2 ⟨by simp [hcount], hwrite, hread⟩
  · exact (bufferInv_iff_of_pos hpos).2 (by simp [hcount, hwrite, hread, hpos])

/-- A ring position of a buffered byte lies at or above the places that the tail of a packet that fits is copied to. -/
theorem le_ring_position {s : State} (hinv : BufferInv s) {l j : Nat} (hfit : s.count.toNat + l ≤ s.capacity.toNat)
    (hj : j < s.count.toNat) :
    s.writeIndex.toNat + l ≤ s.capacity.toNat + (s.readIndex.toNat + j) % s.capacity.toNat := by
  obtain ⟨-, hwrite, hread, hdistance⟩ := (bufferInv_iff_of_pos (by omega)).1 hinv
  rcases mod_cases_of_lt_two_mul (a := s.readIndex.toNat + j) (cap := s.capacity.toNat) (by omega) with
    ⟨-, hmod⟩ | ⟨hge, hmod⟩ <;> omega

/-! ### The accepted packet -/

/-- What `SUBMIT` makes of a packet of `l` bytes that fits (R152 steps 4 to 6). -/
def acceptPacket (l : Nat) (s : State) : State :=
  if s.capacity.toNat ≤ s.writeIndex.toNat + l then acceptWrapped (s.count.toNat + l) (s.writeIndex.toNat + l) s
  else acceptLinear (s.count.toNat + l) (s.writeIndex.toNat + l) s

theorem acceptPacket_of_le {l : Nat} {s : State} (hreach : s.capacity.toNat ≤ s.writeIndex.toNat + l) :
    acceptPacket l s = acceptWrapped (s.count.toNat + l) (s.writeIndex.toNat + l) s := if_pos hreach

theorem acceptPacket_of_lt {l : Nat} {s : State} (hbelow : s.writeIndex.toNat + l < s.capacity.toNat) :
    acceptPacket l s = acceptLinear (s.count.toNat + l) (s.writeIndex.toNat + l) s := if_neg hbelow.not_ge

theorem accepted_acceptPacket {l : Nat} {s : State} (hinv : BufferInv s)
    (hfit : s.count.toNat + l ≤ s.capacity.toNat) : Accepted l s (acceptPacket l s) := by
  unfold acceptPacket
  split_ifs with hreach
  · exact accepted_acceptWrapped hinv hfit hreach
  · exact accepted_acceptLinear hfit (Nat.lt_of_not_le hreach)

/-- Under the invariants every packet that fits is accepted. -/
theorem exec_submit_of_fit {s : State} {l : BitVec 16} (hinv : BufferInv s) (htwice : FitsTwice s)
    (hfit : s.count.toNat + l.toNat ≤ s.capacity.toNat) :
    exec (.submit l) s = .next (acceptPacket l.toNat s) := by
  have hwrite := writeIndex_le_capacity hinv
  unfold acceptPacket
  split_ifs with hreach
  · exact submitPacket_wrapped (l := l.toNat) hfit hreach (by omega)
  · exact submitPacket_linear hfit (Nat.lt_of_not_le hreach)

/-- Everything `SUBMIT` can do, the two ways of accepting a packet as one (R152). -/
theorem exec_submit_cases {s t : State} {l : BitVec 16} (h : exec (.submit l) s = .next t) :
    (s.capacity.toNat < s.count.toNat + l.toNat ∧ t = overrun s) ∨
    (s.count.toNat + l.toNat ≤ s.capacity.toNat ∧ t = acceptPacket l.toNat s) := by
  rcases submitPacket_cases h with ⟨hover, rfl⟩ | ⟨hfit, hbelow, rfl⟩ | ⟨hfit, hreach, -, rfl⟩
  · exact .inl ⟨hover, rfl⟩
  · exact .inr ⟨hfit, (acceptPacket_of_lt hbelow).symm⟩
  · exact .inr ⟨hfit, (acceptPacket_of_le hreach).symm⟩

namespace Accepted

theorem capacity_eq {l : Nat} {s t : State} (h : Accepted l s t) : t.capacity = s.capacity := by rw [h.frame]

theorem readIndex_eq {l : Nat} {s t : State} (h : Accepted l s t) : t.readIndex = s.readIndex := by rw [h.frame]

/-- Where the write index goes. -/
theorem writeIndex_eq {l : Nat} {s t : State} (h : Accepted l s t) :
    t.writeIndex.toNat =
      if s.capacity.toNat ≤ s.writeIndex.toNat + l then s.writeIndex.toNat + l - s.capacity.toNat
      else s.writeIndex.toNat + l := by
  split_ifs with hreach
  · exact (h.wrapped hreach).1
  · exact (h.linear (Nat.lt_of_not_le hreach)).1

/-- The bytes that the tail is copied to (R154). -/
theorem stor_tail {l k : Nat} {s t : State} (h : Accepted l s t)
    (hk : s.capacity.toNat + k < s.writeIndex.toNat + l) : stor t k = stor s (s.capacity.toNat + k) := by
  obtain ⟨-, hbytes⟩ := h.wrapped (by omega)
  rw [hbytes, if_pos (by omega)]

/-- Every other byte. -/
theorem stor_of_le {l k : Nat} {s t : State} (h : Accepted l s t)
    (hk : s.writeIndex.toNat + l ≤ s.capacity.toNat + k) : stor t k = stor s k := by
  rcases Nat.lt_or_ge (s.writeIndex.toNat + l) s.capacity.toNat with hbelow | hreach
  · obtain ⟨-, hstorage⟩ := h.linear hbelow
    exact stor_congr hstorage (by rw [h.frame]) k
  · obtain ⟨-, hbytes⟩ := h.wrapped hreach
    rw [hbytes, if_neg (by omega)]

/-- An accepted packet keeps R31. -/
theorem bufferInv {l : Nat} {s t : State} (h : Accepted l s t) (hinv : BufferInv s)
    (hfit : s.count.toNat + l ≤ s.capacity.toNat) : BufferInv t := by
  have hcount := h.count
  have hwrite := h.writeIndex_eq
  rcases Nat.eq_zero_or_pos s.capacity.toNat with hzero | hpos
  · obtain ⟨-, hw, hr⟩ := (bufferInv_iff_of_zero hzero).1 hinv
    refine (bufferInv_iff_of_zero (by rw [h.capacity_eq, hzero])).2 ⟨by omega, ?_, by rw [h.readIndex_eq, hr]⟩
    apply BitVec.eq_of_toNat_eq
    rw [hwrite, if_pos (by omega), hw]
    simp
    omega
  · obtain ⟨-, hw, hr, hdistance⟩ := (bufferInv_iff_of_pos hpos).1 hinv
    refine (bufferInv_iff_of_pos (by rwa [h.capacity_eq])).2 ?_
    rw [h.capacity_eq, h.readIndex_eq, hcount, hwrite]
    split_ifs <;> omega

end Accepted

/-! ### The byte queue -/

/-- Settles O35: the older bytes are at the same positions, which the tail copy does not reach; each new one is at its
linear position or, past the capacity, where its copy went. -/
theorem submitAppendsThePacketBytes : Obligations.SubmitAppendsThePacketBytes := by
  intro s t l hinv htwice hfit hexec
  obtain rfl := Host.Outcome.next.inj ((exec_submit_of_fit hinv htwice hfit).symm.trans hexec)
  have hacc := accepted_acceptPacket hinv hfit
  generalize acceptPacket l.toNat s = t at hacc
  rw [buffered, hacc.count, List.range_add, List.map_append, List.map_map]
  congr 1
  · refine List.map_congr_left fun j hj => ?older
    rw [ringByte, ringByte, hacc.readIndex_eq, hacc.capacity_eq]
    exact hacc.stor_of_le (le_ring_position hinv hfit (List.mem_range.1 hj))
  · refine List.map_congr_left fun j hj => ?newer
    have hjl : j < l.toNat := List.mem_range.1 hj
    obtain ⟨-, hwrite, -, -⟩ := (bufferInv_iff_of_pos (by omega)).1 hinv
    obtain ⟨-, hinside, -⟩ := hinv
    obtain ⟨-, -, hdistance⟩ := hinside (by omega)
    rw [Function.comp_apply, ringByte, hacc.readIndex_eq, hacc.capacity_eq, ← Nat.add_assoc, ← Nat.mod_add_mod,
      hdistance]
    rcases mod_cases_of_lt_two_mul (a := s.writeIndex.toNat + j) (cap := s.capacity.toNat) (by omega) with
      ⟨-, hmod⟩ | ⟨hge, hmod⟩
    · rw [hmod]
      exact hacc.stor_of_le (by omega)
    · rw [hmod, hacc.stor_tail (by omega), Nat.add_sub_cancel' hge]

/-- `SUBMIT` keeps R31, whether the packet fits or not. -/
theorem exec_submit_keeps_bufferInv {s t : State} {l : BitVec 16} (hinv : BufferInv s)
    (h : exec (.submit l) s = .next t) : BufferInv t := by
  rcases exec_submit_cases h with ⟨-, rfl⟩ | ⟨hfit, rfl⟩
  · exact bufferInv_of_empty rfl rfl rfl
  · exact (accepted_acceptPacket hinv hfit).bufferInv hinv hfit

/-- Settles O37: the invariant after `SUBMIT` keeps `writeIndex` below the capacity, and the window lies inside the
32-bit offsets. -/
theorem nextWriteAddressFollowsTheWriteIndex : Obligations.NextWriteAddressFollowsTheWriteIndex := by
  intro s t l hinv htwice hpos hexec
  have hframe := exec_footprint hexec
  have hcapacity : t.capacity = s.capacity := by rw [hframe]; rfl
  have hconf : t.conf = s.conf := by rw [hframe]; rfl
  have hinv' := exec_submit_keeps_bufferInv hinv hexec
  obtain ⟨-, hwrite, -, -⟩ := (bufferInv_iff_of_pos (by rwa [hcapacity])).1 hinv'
  rw [hcapacity] at hwrite
  refine ⟨?_, hwrite⟩
  rw [regRead_nextWr_toNat (by rw [hconf]; omega), hconf]

/-! ### Packets that fit together -/

/-- From the start of the buffer a packet that fits reaches the capacity at most, so it has no tail (R156). -/
theorem acceptPacket_storage_of_start {l : Nat} {s : State} (hinv : BufferInv s) (hread : s.readIndex = 0)
    (hfit : s.count.toNat + l ≤ s.capacity.toNat) : (acceptPacket l s).storage = s.storage := by
  have hwrite : s.writeIndex.toNat ≤ s.count.toNat := by
    rcases Nat.eq_zero_or_pos s.capacity.toNat with hzero | hpos
    · obtain ⟨-, hw, -⟩ := (bufferInv_iff_of_zero hzero).1 hinv
      simp [hw]
    · obtain ⟨-, -, -, hdistance⟩ := (bufferInv_iff_of_pos hpos).1 hinv
      simp only [hread, BitVec.ofNat_eq_ofNat, BitVec.toNat_zero, Nat.zero_add] at hdistance
      omega
  have htail : s.writeIndex.toNat + l - s.capacity.toNat = 0 := by omega
  unfold acceptPacket
  split_ifs
  · rw [acceptWrapped, htail]
    rfl
  · rfl

theorem runCommands_cons {i : Instr} {is : List Instr} {s t : State} (h : exec i s = .next t) :
    runCommands (i :: is) s = runCommands is t := by
  rw [runCommands, h]

/-- Packets that fit together, from the start of the buffer on (R156 (b)). -/
theorem runCommands_submit_of_start (ls : List (BitVec 16)) {s : State} (hinv : BufferInv s) (htwice : FitsTwice s)
    (hread : s.readIndex = 0) (hfit : s.count.toNat + (ls.map BitVec.toNat).sum ≤ s.capacity.toNat) :
    ∃ t, runCommands (ls.map Instr.submit) s = .next t ∧
      t = { s with count := t.count, writeIndex := t.writeIndex } ∧
      t.count.toNat = s.count.toNat + (ls.map BitVec.toNat).sum := by
  induction ls generalizing s with
  | nil => exact ⟨s, rfl, rfl, rfl⟩
  | cons l ls ih =>
    simp only [List.map_cons, List.sum_cons] at hfit ⊢
    have hfirst : s.count.toNat + l.toNat ≤ s.capacity.toNat := by omega
    have hexec := exec_submit_of_fit hinv htwice hfirst
    have hacc := accepted_acceptPacket hinv hfirst
    have hstorage := acceptPacket_storage_of_start hinv hread hfirst
    generalize acceptPacket l.toNat s = u at hexec hacc hstorage
    have hframe : u = { s with count := u.count, writeIndex := u.writeIndex } := by
      rw [← hstorage]
      exact hacc.frame
    have hcount := hacc.count
    have hcapacity := hacc.capacity_eq
    have hconf : u.conf = s.conf := by rw [hframe]
    obtain ⟨t, hrun, ht, hsum⟩ := ih (hacc.bufferInv hinv hfirst) (by simpa [FitsTwice, hcapacity, hconf] using htwice)
      (by rw [hacc.readIndex_eq, hread]) (by rw [hcount, hcapacity]; omega)
    refine ⟨t, by rw [runCommands_cons hexec, hrun], ?_, by omega⟩
    rw [hframe] at ht
    exact ht

/-- Settles O36: the empty buffer meets the invariant, and the packets run up from offset 0. -/
theorem packetsThatFitTogetherNeedNoCopy : Obligations.PacketsThatFitTogetherNeedNoCopy := by
  intro s ls hcount hwrite hread htwice hfit
  have hzero : s.count.toNat = 0 := by simp [hcount]
  obtain ⟨t, hrun, hframe, hsum⟩ :=
    runCommands_submit_of_start ls (bufferInv_of_empty hcount hwrite hread) htwice hread (by omega)
  exact ⟨t, hrun, hframe, by omega⟩

end Sys2Proof.Machine

/-! The drain path (R171 to R177). The slots of a `DRAIN` first consume the samples there are, then repeat the last one;
each part is said once for any number of slots, and the hysteresis step after them touches the speed alone. -/

namespace Sys2Proof.Machine

/-! ### Slots, one after the other -/

/-- Slots in two lots. -/
theorem drainSlots_add {m k : Nat} {s t : State} :
    drainSlots (m + k) s = .next t ↔ ∃ u, drainSlots m s = .next u ∧ drainSlots k u = .next t := by
  induction m generalizing s with
  | zero => simp [drainSlots]
  | succ m ih =>
    rw [Nat.add_right_comm, drainSlots_succ]
    simp only [drainSlots_succ, ih]
    constructor
    · rintro ⟨v, hv, u, hu, ht⟩
      exact ⟨u, ⟨v, hv, hu⟩, ht⟩
    · rintro ⟨u, ⟨v, hv, hu⟩, ht⟩
      exact ⟨v, hv, u, hu, ht⟩

theorem drainSlots_one {s t : State} : drainSlots 1 s = .next t ↔ slotStep s = .next t := by
  rw [drainSlots_succ]
  simp [drainSlots]

/-- What every slot step keeps, any number of them keeps. -/
theorem drainSlots_keeps {P : State → Prop} (hslot : ∀ {s t}, P s → slotStep s = .next t → P t) {n : Nat}
    {s t : State} (hs : P s) (h : drainSlots n s = .next t) : P t := by
  induction n generalizing s with
  | zero => exact Host.Outcome.next.inj h ▸ hs
  | succ n ih =>
    obtain ⟨u, hu, ht⟩ := drainSlots_succ.1 h
    exact ih (hslot hs hu) ht

/-! ### The ring under a slot -/

theorem readIndex_mod {s : State} (hinv : BufferInv s) : s.readIndex.toNat % s.capacity.toNat = s.readIndex.toNat := by
  rcases Nat.eq_zero_or_pos s.capacity.toNat with hzero | hpos
  · rw [hzero, Nat.mod_zero]
  · obtain ⟨-, -, hread, -⟩ := (bufferInv_iff_of_pos hpos).1 hinv
    exact Nat.mod_eq_of_lt hread

/-- A consumed sample keeps R31: the read index and the count move together. -/
theorem consumeSample_keeps_bufferInv {s : State} (hinv : BufferInv s) (hcount : 4 ≤ s.count.toNat) :
    BufferInv (consumeSample s) := by
  have hpos : 0 < s.capacity.toNat := by
    obtain ⟨hle, -⟩ := hinv
    omega
  obtain ⟨hle, hwrite, hread, hdistance⟩ := (bufferInv_iff_of_pos hpos).1 hinv
  refine (bufferInv_iff_of_pos (s := consumeSample s) hpos).2 ?_
  rw [consumeSample_count hcount, consumeSample_readIndex hpos]
  change _ ≤ s.capacity.toNat ∧ s.writeIndex.toNat < s.capacity.toNat ∧ _ < s.capacity.toNat ∧
    (_ = s.writeIndex.toNat ∨ _ = s.writeIndex.toNat + s.capacity.toNat)
  rcases mod_cases_of_lt_two_mul (a := s.readIndex.toNat + 4) (cap := s.capacity.toNat) (by omega) with
    ⟨hlt, hmod⟩ | ⟨hge, hmod⟩ <;> rw [hmod] <;> omega

theorem slotStep_keeps_bufferInv {s t : State} (hinv : BufferInv s) (h : slotStep s = .next t) : BufferInv t := by
  rcases slotStep_cases h with ⟨hcount, -, -, rfl⟩ | ⟨-, rfl⟩
  · exact consumeSample_keeps_bufferInv hinv hcount
  · exact hinv

/-! ### The slots that consume -/

/-- The first `m` samples of the ring, each read linearly at its read index (R70, R172). -/
def sampleWords (s : State) (m : Nat) : List Word :=
  (List.range m).map fun j => wordAt s ((s.readIndex.toNat + 4 * j) % s.capacity.toNat)

theorem sampleWords_succ (s : State) (m : Nat) :
    sampleWords s (m + 1) =
      sampleWords s m ++ [wordAt s ((s.readIndex.toNat + 4 * m) % s.capacity.toNat)] := by
  rw [sampleWords, List.range_succ, List.map_append]
  rfl

/-- What `m` slots that all consume make of `s` (R172, R177). -/
structure Consumed (m : Nat) (s t : State) : Prop where
  frame : t = { s with
    count := t.count, readIndex := t.readIndex, lastSample := (sampleWords s m).getLast?.getD s.lastSample
    txLog := s.txLog ++ sampleWords s m }
  count : t.count.toNat = s.count.toNat - 4 * m
  readIndex : t.readIndex.toNat = (s.readIndex.toNat + 4 * m) % s.capacity.toNat

theorem consumed_zero {s : State} (hinv : BufferInv s) : Consumed 0 s s where
  frame := by
    rw [show sampleWords s 0 = [] from rfl, List.append_nil]
    rfl
  count := rfl
  readIndex := (readIndex_mod hinv).symm

/-- What a consumed sample may change (R172). -/
theorem consumeSample_frame (s : State) :
    consumeSample s = { s with
      count := (consumeSample s).count, readIndex := (consumeSample s).readIndex
      lastSample := (consumeSample s).lastSample, txLog := (consumeSample s).txLog } := rfl

/-- A sample read after others is read from the same bytes, one step further on. -/
theorem Consumed.succ {m : Nat} {s u : State} (h : Consumed m s u) (hcount : 4 * (m + 1) ≤ s.count.toNat)
    (hpos : 0 < s.capacity.toNat) : Consumed (m + 1) s (consumeSample u) := by
  have hu := h.count
  have hcapacity : u.capacity = s.capacity := by rw [h.frame]
  have hword : sampleAt u = wordAt s ((s.readIndex.toNat + 4 * m) % s.capacity.toNat) := by
    rw [sampleAt_eq, h.readIndex, h.frame]
    rfl
  refine ⟨?frame, ?count, ?readIndex⟩
  case frame =>
    have hlog : (consumeSample u).txLog = s.txLog ++ sampleWords s (m + 1) := by
      rw [sampleWords_succ, ← List.append_assoc, ← hword, h.frame]
      rfl
    have hlast : (consumeSample u).lastSample = (sampleWords s (m + 1)).getLast?.getD s.lastSample := by
      rw [sampleWords_succ, List.getLast?_concat, ← hword]
      rfl
    have hframe := consumeSample_frame u
    rw [← hlog, ← hlast]
    generalize consumeSample u = t at hframe ⊢
    rwa [h.frame] at hframe
  case count =>
    rw [consumeSample_count (by omega)]
    omega
  case readIndex =>
    rw [consumeSample_readIndex (by rwa [hcapacity]), h.readIndex, hcapacity, Nat.mod_add_mod]
    rfl

/-- Under the invariants the samples there are can all be consumed: no fetch leaves `storage` (R70, R172). -/
theorem drainSlots_consumes {m : Nat} {s : State} (hinv : BufferInv s) (htwice : FitsTwice s)
    (hcount : 4 * m ≤ s.count.toNat) : ∃ t, drainSlots m s = .next t ∧ Consumed m s t := by
  induction m with
  | zero => exact ⟨s, rfl, consumed_zero hinv⟩
  | succ m ih =>
    obtain ⟨u, hu, hconsumed⟩ := ih (by omega)
    have hinv' : BufferInv u := drainSlots_keeps slotStep_keeps_bufferInv hinv hu
    obtain ⟨hle, -⟩ := hinv
    have hucount := hconsumed.count
    have hcapacity : u.capacity = s.capacity := by rw [hconsumed.frame]
    have hconf : u.conf = s.conf := by rw [hconsumed.frame]
    have hpos : 0 < u.capacity.toNat := by rw [hcapacity]; omega
    obtain ⟨-, -, hread, -⟩ := (bufferInv_iff_of_pos hpos).1 hinv'
    have hroom : u.readIndex.toNat + 4 ≤ u.conf.storageSize := by rw [hconf]; rw [hcapacity] at hread; omega
    have hstep := slotStep_consume (by omega) (fun h0 => by simp [h0] at hpos) hroom
    exact ⟨consumeSample u, drainSlots_add.2 ⟨u, hu, drainSlots_one.2 hstep⟩,
      hconsumed.succ hcount (by omega)⟩

/-! ### The slots that repeat -/

/-- What `k` slots that all underrun make of `s` (R173). -/
def repeated (k : Nat) (s : State) : State :=
  { s with
    txLog := s.txLog ++ List.replicate k s.lastSample
    event := if 0 < k then s.event ||| 0b001000#6 else s.event }

theorem repeated_zero (s : State) : repeated 0 s = s := by simp [repeated]

theorem repeated_repeatSample (k : Nat) (s : State) : repeated k (repeatSample s) = repeated (k + 1) s := by
  have hlog : s.txLog ++ [s.lastSample] ++ List.replicate k s.lastSample =
      s.txLog ++ List.replicate (k + 1) s.lastSample := by
    rw [List.append_assoc, List.replicate_succ]
    rfl
  have hevent : (if 0 < k then s.event ||| 0b001000#6 ||| 0b001000#6 else s.event ||| 0b001000#6) =
      if 0 < k + 1 then s.event ||| 0b001000#6 else s.event := by
    rw [BitVec.or_assoc, BitVec.or_self, ite_self, if_pos k.succ_pos]
  rw [repeated, repeated, ← hlog, ← hevent]
  rfl

/-- Without a sample, every slot repeats the last one (R173). -/
theorem drainSlots_repeats {k : Nat} {s : State} (hempty : 0 < k → s.count.toNat < 4) :
    drainSlots k s = .next (repeated k s) := by
  induction k generalizing s with
  | zero => rw [repeated_zero]; rfl
  | succ k ih =>
    have hcount := hempty k.succ_pos
    refine drainSlots_succ.2 ⟨repeatSample s, slotStep_repeat hcount, ?_⟩
    rw [ih (s := repeatSample s) fun _ => hcount, repeated_repeatSample]

/-! ### The command -/

/-- `DRAIN` while streaming, from what its slots leave (R171). -/
theorem exec_drain_of_slots {n : BitVec 4} {s u : State} (hrun : s.run = true) (h : drainSlots n.toNat s = .next u) :
    exec (.drain n) s = .next (hysteresis u) := by
  show execDrain n s = _
  rw [execDrain, if_pos hrun]
  exact drainPlaying_next.2 ⟨u, h, rfl⟩

/-- The slots of a `DRAIN`: it consumes the whole samples there are, at most `n`, and repeats for the rest. -/
theorem drainSlots_consumes_then_repeats {s : State} (hinv : BufferInv s) (htwice : FitsTwice s) (n : Nat) :
    ∃ u, Consumed (min n (s.count.toNat / 4)) s u ∧
      drainSlots n s = .next (repeated (n - min n (s.count.toNat / 4)) u) := by
  obtain ⟨u, hu, hconsumed⟩ := drainSlots_consumes (m := min n (s.count.toNat / 4)) hinv htwice (by omega)
  have hcount := hconsumed.count
  refine ⟨u, hconsumed, ?_⟩
  have hslots := drainSlots_add.2 ⟨u, hu, drainSlots_repeats (k := n - min n (s.count.toNat / 4)) (by omega)⟩
  rwa [Nat.add_sub_cancel' (Nat.min_le_left _ _)] at hslots

/-- Settles O39: the slots that consume, the slots that repeat, then the hysteresis step. -/
theorem drainConsumesThenRepeats : Obligations.DrainConsumesThenRepeats := by
  intro s n hinv htwice hrun m words last
  obtain ⟨u, hconsumed, hslots⟩ := drainSlots_consumes_then_repeats hinv htwice n.toNat
  refine ⟨_, exec_drain_of_slots hrun hslots, ?count, ?readIndex, ?frame⟩
  case count =>
    rw [hysteresis_frame]
    exact hconsumed.count
  case readIndex =>
    rw [hysteresis_frame]
    exact hconsumed.readIndex
  case frame =>
    have hframe := hysteresis_frame (repeated (n.toNat - m) u)
    generalize hysteresis (repeated (n.toNat - m) u) = t at hframe ⊢
    rw [hframe, repeated, hconsumed.frame]
    simp only [Nat.sub_pos_iff_lt]
    rfl

/-! ### The oldest bytes -/

/-- Short of the capacity a ring position is linear (R71). -/
theorem ringByte_of_lt {s : State} {j : Nat} (h : s.readIndex.toNat + j < s.capacity.toNat) :
    ringByte s j = stor s (s.readIndex.toNat + j) := by
  rw [ringByte, Nat.mod_eq_of_lt h]

/-- After a sample the ring starts four bytes further on. -/
theorem ringByte_consumeSample {s : State} (hpos : 0 < s.capacity.toNat) (j : Nat) :
    ringByte (consumeSample s) j = ringByte s (4 + j) := by
  rw [ringByte, consumeSample_readIndex hpos, ringByte, ← Nat.add_assoc]
  exact congrArg (stor s) (Nat.mod_add_mod _ _ _)

/-- A sample that does not straddle the capacity takes the four oldest bytes off the queue (R67, R71, R172). -/
theorem buffered_consumeSample {s : State} (hcount : 4 ≤ s.count.toNat)
    (hroom : s.readIndex.toNat + 4 ≤ s.capacity.toNat) :
    buffered s =
      [stor s s.readIndex.toNat, stor s (s.readIndex.toNat + 1), stor s (s.readIndex.toNat + 2),
        stor s (s.readIndex.toNat + 3)] ++ buffered (consumeSample s) := by
  have hrest := consumeSample_count hcount
  have hsplit : s.count.toNat = 4 + (consumeSample s).count.toNat := by omega
  rw [buffered, hsplit, List.range_add, List.map_append, List.map_map, buffered]
  congr 1
  · show [ringByte s 0, ringByte s 1, ringByte s 2, ringByte s 3] = _
    rw [ringByte_of_lt (by omega), ringByte_of_lt (by omega), ringByte_of_lt (by omega), ringByte_of_lt (by omega),
      Nat.add_zero]
  · exact List.map_congr_left fun j _ => (ringByte_consumeSample (by omega) j).symm

theorem buffered_hysteresis (s : State) : buffered (hysteresis s) = buffered s := by
  rw [hysteresis_frame]
  rfl

/-- Settles O42: the one slot consumes, and the hysteresis step touches neither the ring nor the log. -/
theorem drainPlaysTheOldestBytes : Obligations.DrainPlaysTheOldestBytes := by
  intro s t _ hrun hcount hroom hexec
  obtain ⟨u, hslots, rfl⟩ := exec_drain_of_running hrun hexec
  obtain rfl : u = consumeSample s := by
    rcases slotStep_cases (drainSlots_one.1 hslots) with ⟨-, -, -, rfl⟩ | ⟨hshort, -⟩
    · rfl
    · omega
  obtain ⟨hlast, hlog⟩ := consumeSample_pushes s
  have hqueue := buffered_consumeSample hcount hroom
  rw [← buffered_hysteresis (consumeSample s)] at hqueue
  refine ⟨_, _, _, _, hqueue, ?log, ?last⟩
  case log =>
    rw [hysteresis_frame]
    exact hlog
  case last =>
    rw [hysteresis_frame]
    exact hlast

/-! ### An aligned read index -/

/-- The ring's invariant with the capacity and the read index multiples of the sample size. -/
def AlignedRing (s : State) : Prop := BufferInv s ∧ 4 ∣ s.capacity.toNat ∧ 4 ∣ s.readIndex.toNat

theorem slotStep_keeps_alignedRing {s t : State} (h : AlignedRing s) (hstep : slotStep s = .next t) :
    AlignedRing t := by
  obtain ⟨hinv, hcapacity, hread⟩ := h
  refine ⟨slotStep_keeps_bufferInv hinv hstep, ?_⟩
  rcases slotStep_cases hstep with ⟨hcount, -, -, rfl⟩ | ⟨-, rfl⟩
  · refine ⟨hcapacity, ?_⟩
    have hpos : 0 < s.capacity.toNat := by
      obtain ⟨hle, -⟩ := hinv
      omega
    rw [consumeSample_readIndex hpos, Nat.dvd_mod_iff hcapacity]
    exact Nat.dvd_add hread (dvd_refl 4)
  · exact ⟨hcapacity, hread⟩

/-- Below an aligned capacity an aligned read index has room for a sample. -/
theorem AlignedRing.room {s : State} (h : AlignedRing s) (hpos : 0 < s.capacity.toNat) :
    s.readIndex.toNat + 4 ≤ s.capacity.toNat := by
  obtain ⟨hinv, hcapacity, hread⟩ := h
  obtain ⟨-, -, hlt, -⟩ := (bufferInv_iff_of_pos hpos).1 hinv
  omega

/-- Settles O43: every slot keeps the ring aligned, a masked `DRAIN` keeps the state. -/
theorem alignedCapacityKeepsTheReadIndexAligned : Obligations.AlignedCapacityKeepsTheReadIndexAligned := by
  intro s t n hinv hcapacity hread hexec
  have haligned : AlignedRing s := ⟨hinv, hcapacity, hread⟩
  suffices haligned' : AlignedRing t by
    have ⟨_, _, hread'⟩ := haligned'
    exact ⟨hread', haligned'.room⟩
  rcases execDrain_cases hexec with ⟨-, rfl⟩ | ⟨-, u, hslots, rfl⟩
  · exact haligned
  · have hu : AlignedRing u := drainSlots_keeps slotStep_keeps_alignedRing haligned hslots
    rw [hysteresis_frame]
    exact hu

/-! ### A packet and a tick in either order -/

/-- `t` with the speed mode and the active divider of `s`. -/
def withSpeedOf (s t : State) : State := { t with mode := s.mode, actX := s.actX, actY := s.actY }

/-- When the samples are there, `DRAIN` consumes them; but for the speed that is all (R171, R174). -/
theorem exec_drain_consumes {s : State} {n : BitVec 4} (hinv : BufferInv s) (htwice : FitsTwice s)
    (hrun : s.run = true) (hcount : 4 * n.toNat ≤ s.count.toNat) :
    ∃ t, exec (.drain n) s = .next t ∧ Consumed n.toNat s (withSpeedOf s t) ∧ BufferInv t := by
  obtain ⟨u, hslots, hconsumed⟩ := drainSlots_consumes hinv htwice hcount
  refine ⟨_, exec_drain_of_slots hrun hslots, ?_, ?_⟩
  · have hspeed : withSpeedOf s (hysteresis u) = u := by
      rw [hysteresis_frame, hconsumed.frame]
      rfl
    rwa [hspeed]
  · have hu : BufferInv u := drainSlots_keeps slotStep_keeps_bufferInv hinv hslots
    rw [hysteresis_frame]
    exact hu

theorem acceptPacket_withSpeedOf (l : Nat) (s t : State) :
    acceptPacket l (withSpeedOf s t) = withSpeedOf s (acceptPacket l t) := by
  rcases Nat.lt_or_ge (t.writeIndex.toNat + l) t.capacity.toNat with hbelow | hreach
  · rw [acceptPacket_of_lt hbelow, acceptPacket_of_lt (s := withSpeedOf s t) hbelow]
    rfl
  · rw [acceptPacket_of_le hreach, acceptPacket_of_le (s := withSpeedOf s t) hreach]
    rfl

/-- Samples consumed first leave the packet's write index and its tail copy as they are. -/
theorem Consumed.acceptPacket_frame {m : Nat} {s u : State} (h : Consumed m s u) (l : Nat) :
    acceptPacket l u = { u with
      count := BitVec.ofNat 16 (u.count.toNat + l), writeIndex := (acceptPacket l s).writeIndex
      storage := (acceptPacket l s).storage } := by
  rw [h.frame]
  unfold acceptPacket
  split_ifs <;> rfl

/-- A packet that fits leaves the samples that are there as they are (R154). -/
theorem sampleWords_acceptPacket {l m : Nat} {s : State} (hinv : BufferInv s)
    (hfit : s.count.toNat + l ≤ s.capacity.toNat) (hcount : 4 * m ≤ s.count.toNat) :
    sampleWords (acceptPacket l s) m = sampleWords s m := by
  have hacc := accepted_acceptPacket hinv hfit
  rw [sampleWords, hacc.readIndex_eq, hacc.capacity_eq]
  refine List.map_congr_left fun j hj => ?_
  have hjm := List.mem_range.1 hj
  have hposition := le_ring_position hinv hfit (j := 4 * j) (by omega)
  rw [wordAt, hacc.stor_of_le (by omega), hacc.stor_of_le (by omega), hacc.stor_of_le (by omega),
    hacc.stor_of_le (by omega), ← wordAt]

/-- Samples consumed after a packet, and the packet accepted after the samples, give the same state. -/
theorem Consumed.acceptPacket_comm {l m : Nat} {s t u : State} (hinv : BufferInv s)
    (hfit : s.count.toNat + l ≤ s.capacity.toNat) (hcount : 4 * m ≤ s.count.toNat)
    (ht : Consumed m (acceptPacket l s) t) (hu : Consumed m s u) : t = acceptPacket l u := by
  have hacc := accepted_acceptPacket hinv hfit
  have htcount : t.count = BitVec.ofNat 16 (u.count.toNat + l) := by
    apply BitVec.eq_of_toNat_eq
    have := ht.count
    have := hu.count
    have := hacc.count
    rw [toNat_ofNat_of_le_capacity (s := s) (by omega)]
    omega
  have htread : t.readIndex = u.readIndex := by
    apply BitVec.eq_of_toNat_eq
    rw [ht.readIndex, hu.readIndex, hacc.readIndex_eq, hacc.capacity_eq]
  have hframe := ht.frame
  rw [sampleWords_acceptPacket hinv hfit hcount, htcount, htread] at hframe
  have hs := hacc.frame
  rw [hframe, hu.acceptPacket_frame]
  generalize acceptPacket l s = a at hs ⊢
  rw [hs, hu.frame]

/-- Settles O44: both orders complete; but for the speed, the one consumes samples after the packet and the other
accepts the packet after the samples, which commute. -/
theorem packetAndTickCommuteButForTheSpeed : Obligations.PacketAndTickCommuteButForTheSpeed := by
  intro s l n hinv htwice hrun hfit hcount
  have hsubmit := exec_submit_of_fit hinv htwice hfit
  have hacc := accepted_acceptPacket hinv hfit
  have hmore : 4 * n.toNat ≤ (acceptPacket l.toNat s).count.toNat := by
    rw [hacc.count]
    omega
  obtain ⟨htwice', hrun'⟩ : FitsTwice (acceptPacket l.toNat s) ∧ (acceptPacket l.toNat s).run = true := by
    rw [hacc.frame]
    exact ⟨htwice, hrun⟩
  obtain ⟨t, ht, htick, -⟩ := exec_drain_consumes (hacc.bufferInv hinv hfit) htwice' hrun' hmore
  obtain ⟨v, hv, hfirst, hinv'⟩ := exec_drain_consumes hinv htwice hrun hcount
  have hvcount : v.count.toNat = s.count.toNat - 4 * n.toNat := hfirst.count
  have hvcapacity : v.capacity = s.capacity := (congrArg State.capacity hfirst.frame :)
  have hvconf : v.conf = s.conf := (congrArg State.conf hfirst.frame :)
  have hu := exec_submit_of_fit (l := l) hinv' (by rwa [FitsTwice, hvcapacity, hvconf])
    (by rw [hvcount, hvcapacity]; omega)
  have hcomm := htick.acceptPacket_comm hinv hfit hcount hfirst
  refine ⟨t, acceptPacket l.toNat v, ?packetFirst, ?tickFirst, ?same⟩
  case packetFirst =>
    rw [runCommands_cons hsubmit, runCommands_cons ht]
    rfl
  case tickFirst =>
    rw [runCommands_cons hv, runCommands_cons hu]
    rfl
  case same =>
    rw [acceptPacket_withSpeedOf] at hcomm
    calc acceptPacket l.toNat v
        = withSpeedOf (acceptPacket l.toNat v) (withSpeedOf s (acceptPacket l.toNat v)) := rfl
      _ = withSpeedOf (acceptPacket l.toNat v) t := by
        rw [← hcomm]
        rfl

end Sys2Proof.Machine

/-! The whole machine. The invariants hold at reset (R58), every command keeps each of them, and so does every step;
under them every step goes on. Last, what the producer and the drain agent leave of the host's state (R223). -/

namespace Sys2Proof.Machine

/-! ### At reset -/

theorem inv_resetOf (c : Config) (draw : Nat) : Inv (State.resetOf c draw) where
  left := bufferInv_of_empty rfl rfl rfl
  right := ⟨⟨rfl, fun _ hc => absurd hc List.not_mem_nil⟩, rfl,
    fun _ => ⟨rfl, rfl, rfl, rfl, rfl, rfl, rfl⟩, nofun, rfl⟩

/-- Settles O46: the machine's own reset state is one of a configuration. -/
theorem resetMeetsTheInvariant : Obligations.ResetMeetsTheInvariant :=
  ⟨inv_resetOf, inv_resetOf Config.chip 0⟩

/-- Settles O47: the capacity is 0 or that of a rate, which a legal configuration fits twice (R12, R29). -/
theorem invariantGivesRoomForTheTail : Obligations.InvariantGivesRoomForTheTail := by
  rintro s ⟨-, -, -, hunconfigured, hconfigured, -⟩
  cases hcfg : s.cfg with
  | false =>
    obtain ⟨-, hcapacity, -⟩ := hunconfigured hcfg
    simp [FitsTwice, hcapacity]
  | true =>
    obtain ⟨-, -, hcapacity, -⟩ := hconfigured hcfg
    rw [FitsTwice, hcapacity]
    exact s.conf.two_mul_cap_le s.rateIndex

/-! ### Every command keeps each invariant -/

/-- A slot keeps R31, and the hysteresis step is not about the ring. -/
theorem exec_drain_keeps_bufferInv {n : BitVec 4} {s t : State} (hinv : BufferInv s)
    (h : exec (.drain n) s = .next t) : BufferInv t := by
  rcases execDrain_cases h with ⟨-, rfl⟩ | ⟨-, u, hslots, rfl⟩
  · exact hinv
  · have hu : BufferInv u := drainSlots_keeps slotStep_keeps_bufferInv hinv hslots
    rw [hysteresis_frame]
    exact hu

/-- R31: the commands that write the ring reset it, append to it or drain it. -/
theorem exec_keeps_bufferInv {i : Instr} {s t : State} (hinv : BufferInv s) (h : exec i s = .next t) :
    BufferInv t := by
  cases i with
  | init | solve | getRate =>
    rw [exec_footprint h]
    exact hinv
  | setRate fmt =>
    rcases exec_setRate_cases h with ⟨i, -, rfl⟩ | rfl
    · exact bufferInv_of_empty rfl rfl rfl
    · exact hinv
  | streamStart =>
    rcases exec_streamStart_cases h with ⟨-, rfl⟩ | ⟨-, rfl⟩
    · exact bufferInv_of_empty rfl rfl rfl
    · exact hinv
  | streamStop =>
    obtain rfl := Host.Outcome.next.inj ((exec_streamStop s).symm.trans h)
    exact bufferInv_of_empty rfl rfl rfl
  | bufReset =>
    obtain rfl := Host.Outcome.next.inj ((exec_bufReset s).symm.trans h)
    exact bufferInv_of_empty rfl rfl rfl
  | submit l => exact exec_submit_keeps_bufferInv hinv h
  | drain n => exact exec_drain_keeps_bufferInv hinv h

/-- R35: only `SUBMIT` writes bytes, and its tail copy lists offsets of `storage` in the canonical form. -/
theorem exec_keeps_storageInv {i : Instr} {s t : State} (hinv : StorageInv s)
    (h : exec i s = .next t) : StorageInv t := by
  obtain ⟨hconf, -⟩ := exec_port_frame h
  by_cases hi : ∀ l, i ≠ .submit l
  · obtain ⟨hstorage, -⟩ := exec_keeps_storage hi h
    rwa [StorageInv, hstorage, hconf]
  · obtain ⟨l, rfl⟩ : ∃ l, i = .submit l := by simpa using hi
    rcases submitPacket_cases h with ⟨-, rfl⟩ | ⟨-, -, rfl⟩ | ⟨-, -, hroom, rfl⟩
    · exact hinv
    · exact hinv
    · obtain ⟨hwf, hinside⟩ := hinv
      exact copyTail_keeps (size := s.conf.storageSize) _ 0 hwf hinside (by omega)

/-- R24, R25: the first `INIT` installs the table that the solver gives, and nothing else writes it. -/
theorem exec_keeps_tableInv {i : Instr} {s t : State} (hinv : TableInv s) (h : exec i s = .next t) : TableInv t := by
  cases i with
  | init =>
    rcases exec_init_cases h with ⟨-, rfl⟩ | ⟨-, rfl⟩
    · exact hinv
    · rw [installTable_frame]
      rfl
  | _ =>
    rw [exec_footprint h]
    exact hinv

/-- A valid entry shows that the table was built (R24, R25). -/
theorem tableReady_of_valid {s : State} (hinv : TableInv s) {i : Fin 7} (hvalid : (s.prof.get i).valid = true) :
    s.tableReady = true := by
  by_contra hready
  rw [hinv, if_neg hready, resetOf_prof_not_valid] at hvalid
  exact Bool.false_ne_true hvalid

/-- Before the table is built no profile is loaded (R27). -/
theorem cfg_of_not_tableReady {s : State} (hinv : PlayerInv s) (hready : s.tableReady = false) : s.cfg = false := by
  obtain ⟨-, hconfigured, -⟩ := hinv
  by_contra hcfg
  obtain ⟨hbuilt, -⟩ := hconfigured (by simpa using hcfg)
  simp [hready] at hbuilt

/-- The stream runs only with a profile loaded (R27, R28). -/
theorem cfg_of_run {s : State} (hinv : PlayerInv s) (hrun : s.run = true) : s.cfg = true := by
  obtain ⟨hunconfigured, -, -⟩ := hinv
  by_contra hcfg
  obtain ⟨hstopped, -⟩ := hunconfigured (by simpa using hcfg)
  simp [hrun] at hstopped

/-- The hysteresis step loads the pair of the mode it sets (R174, R175). -/
theorem hysteresis_keeps_playerInv {s : State} (hinv : PlayerInv s) (hcfg : s.cfg = true) :
    PlayerInv (hysteresis s) := by
  have ⟨_, hconfigured, hamp⟩ := hinv
  obtain ⟨hready, hvalid, hcapacity, hprescale, -⟩ := hconfigured hcfg
  have hloaded (m : Mode) (x y : Byte)
      (hpair : (x, y) = if m = .spedUp then ((s.prof.get s.rateIndex).fastX, (s.prof.get s.rateIndex).fastY)
        else ((s.prof.get s.rateIndex).slowX, (s.prof.get s.rateIndex).slowY)) :
      PlayerInv { s with actX := x, actY := y, mode := m } :=
    ⟨fun hno => absurd (hcfg.symm.trans hno) (by decide), fun _ => ⟨hready, hvalid, hcapacity, hprescale, hpair⟩, hamp⟩
  rcases hysteresis_cases s with ⟨-, -, hrow⟩ | ⟨-, -, hrow⟩ | ⟨-, -, hrow⟩ | ⟨-, -, hrow⟩ <;> rw [hrow]
  · exact hloaded .spedUp _ _ rfl
  · exact hinv
  · exact hloaded .normal _ _ rfl
  · exact hinv

/-- An accepted rate loads its profile, which is valid, with the slow pair (R27, R29, R190). -/
theorem reinit_keeps_playerInv {s : State} (htable : TableInv s) (hinv : PlayerInv s) {i : Fin 7}
    (hvalid : (s.prof.get i).valid = true) : PlayerInv (reinit i s) := by
  obtain ⟨-, -, hamp⟩ := hinv
  exact ⟨nofun, fun _ => ⟨tableReady_of_valid htable hvalid, hvalid, reinit_capacity i s, rfl, rfl⟩, hamp⟩

/-- R27 to R29, R56, R175. -/
theorem exec_keeps_playerInv {i : Instr} {s t : State} (htable : TableInv s) (hinv : PlayerInv s)
    (h : exec i s = .next t) : PlayerInv t := by
  cases i with
  | init =>
    rcases exec_init_cases h with ⟨-, rfl⟩ | ⟨hready, rfl⟩
    · exact hinv
    · have hcfg := cfg_of_not_tableReady hinv hready
      obtain ⟨hunconfigured, -, hamp⟩ := hinv
      rw [installTable_frame]
      exact ⟨hunconfigured, fun hyes => absurd (hcfg.symm.trans hyes) (by decide), hamp⟩
  | solve | getRate | bufReset | submit _ =>
    rw [exec_footprint h]
    exact hinv
  | setRate fmt =>
    rcases exec_setRate_cases h with ⟨i, hvalid, rfl⟩ | rfl
    · exact reinit_keeps_playerInv htable hinv hvalid
    · exact hinv
  | streamStart =>
    rcases exec_streamStart_cases h with ⟨hcfg, rfl⟩ | ⟨-, rfl⟩
    · obtain ⟨-, hconfigured, -⟩ := hinv
      exact ⟨fun hno => absurd (hcfg.symm.trans hno) (by decide), hconfigured, rfl⟩
    · exact hinv
  | streamStop =>
    obtain rfl := Host.Outcome.next.inj ((exec_streamStop s).symm.trans h)
    obtain ⟨hunconfigured, hconfigured, -⟩ := hinv
    refine ⟨fun hno => ?_, hconfigured, rfl⟩
    obtain ⟨-, hplayer⟩ := hunconfigured hno
    exact ⟨rfl, hplayer⟩
  | drain n =>
    rcases execDrain_cases h with ⟨-, rfl⟩ | ⟨hrun, u, hslots, rfl⟩
    · exact hinv
    · have hcfg := cfg_of_run hinv hrun
      obtain ⟨hframe, -, -⟩ := drainSlots_frame hslots
      obtain ⟨hinv', hcfg'⟩ : PlayerInv u ∧ u.cfg = true := by
        rw [hframe]
        exact ⟨hinv, hcfg⟩
      exact hysteresis_keeps_playerInv hinv' hcfg'

/-- Every command keeps the invariants. -/
theorem exec_keeps_inv {i : Instr} {s t : State} (hinv : Inv s) (h : exec i s = .next t) : Inv t := by
  obtain ⟨hbuffer, hstorage, htable, hplayer⟩ := hinv
  exact ⟨exec_keeps_bufferInv hbuffer h, exec_keeps_storageInv hstorage h, exec_keeps_tableInv htable h,
    exec_keeps_playerInv htable hplayer h⟩

/-! ### Every step keeps the invariants -/

/-- A byte written in the window is a byte of `storage` (R35, R65). -/
theorem storWrite_keeps_inv {k : Nat} {s : State} (hinv : Inv s) (hk : k < s.conf.storageSize) (v : Byte) :
    Inv (storWrite k v s) := by
  obtain ⟨hbuffer, ⟨hwf, hinside⟩, htable, hplayer⟩ := hinv
  refine ⟨hbuffer, ⟨wf_put hwf, fun c hc => ?_⟩, htable, hplayer⟩
  rcases mem_put hc with rfl | hc
  · exact hk
  · exact hinside c hc

/-- Every request keeps the invariants. -/
theorem perform_keeps_inv {r : Request} {s t : State} (hinv : Inv s) (h : perform r s = .next t) : Inv t := by
  rcases perform_cases h with
    ⟨v, rfl⟩ | ⟨v, rfl⟩ | ⟨v, rfl⟩ | ⟨v, rfl⟩ | ⟨v, rfl⟩ | ⟨k, v, hk, rfl⟩ | ⟨v, -, hissue⟩
  case inr.inr.inr.inr.inr.inl => exact storWrite_keeps_inv (s := respond .written s) hinv hk v
  case inr.inr.inr.inr.inr.inr =>
    rcases issueCommand_cases hissue with ⟨i, -, hexec⟩ | rfl
    · exact exec_keeps_inv (s := respond .written s) hinv hexec
    · exact hinv
  all_goals exact hinv

/-- The invariants say nothing of the agents' lists. -/
theorem inv_setQueue {a : Agent} {q : List Request} {s : State} (hinv : Inv s) : Inv (setQueue a q s) := by
  cases a <;> exact hinv

/-- Settles O45: a step performs a request, which keeps the invariants, or resets, or moves fields that they do not
name. -/
theorem stepKeepsTheInvariant : Obligations.StepKeepsTheInvariant := by
  intro s t hinv h
  rcases step_cases h with ⟨-, rfl⟩ | ⟨rest, rfl | rfl | ⟨-, rfl⟩ | ⟨a, r, q, -, -, -, hperform⟩⟩
  · exact hinv
  · exact hinv
  · exact hinv
  · exact inv_resetOf s.conf (s.resetDraw + 1)
  · exact perform_keeps_inv (inv_setQueue (s := setInputs rest s) hinv) hperform

/-! ### Every step goes on -/

/-- `SUBMIT` goes on: a packet overruns or it fits (R152). -/
theorem exec_submit_completes {s : State} (hinv : BufferInv s) (htwice : FitsTwice s) (l : BitVec 16) :
    Completes (exec (.submit l) s) := by
  rcases Nat.lt_or_ge s.capacity.toNat (s.count.toNat + l.toNat) with hover | hfit
  · exact ⟨_, exec_submit_of_overrun hover⟩
  · exact ⟨_, exec_submit_of_fit hinv htwice hfit⟩

/-- `DRAIN` goes on: it is masked, or its slots find every byte they fetch (R70, R172). -/
theorem exec_drain_completes {s : State} (hinv : BufferInv s) (htwice : FitsTwice s) (n : BitVec 4) :
    Completes (exec (.drain n) s) := by
  cases hrun : s.run with
  | false => exact ⟨_, exec_drain_of_not_running hrun n⟩
  | true =>
    obtain ⟨u, -, hslots⟩ := drainSlots_consumes_then_repeats hinv htwice n.toNat
    exact ⟨_, exec_drain_of_slots hrun hslots⟩

theorem exec_completes {s : State} (hinv : Inv s) (i : Instr) : Completes (exec i s) := by
  have htwice := invariantGivesRoomForTheTail s hinv
  obtain ⟨hbuffer, -⟩ := hinv
  cases i with
  | submit l => exact exec_submit_completes hbuffer htwice l
  | drain n => exact exec_drain_completes hbuffer htwice n
  | _ => exact ⟨_, rfl⟩

theorem issueCommand_completes {s : State} (hinv : Inv s) (c : Word) : Completes (issueCommand c s) := by
  cases hdecode : decode s.conf.fifoDepth c with
  | command i =>
    rw [issueCommand_command hdecode]
    exact exec_completes hinv i
  | illegal why => exact ⟨_, issueCommand_illegal hdecode⟩

theorem perform_completes {s : State} (hinv : Inv s) (r : Request) : Completes (perform r s) := by
  cases r with
  | read32 a => exact ⟨_, rfl⟩
  | read8 a => exact ⟨_, rfl⟩
  | write8 a v => exact ⟨_, rfl⟩
  | write32 a v =>
    cases hreg : regAt a with
    | none => exact ⟨_, perform_write32_illegal hreg v s⟩
    | some g =>
      by_cases hcmd : g = .cmd
      · obtain rfl := regAt_inj (hcmd ▸ hreg) regAt_cmd
        exact issueCommand_completes (s := respond .written s) hinv v
      · exact ⟨_, perform_write32_reg hreg hcmd v s⟩

/-- Settles O48: only a request could stop, and under the invariants every request goes on. -/
theorem noStepStops : Obligations.NoStepStops := by
  intro s hinv
  cases hinputs : s.inputs with
  | nil => exact ⟨s, step_idle hinputs⟩
  | cons i rest =>
    rw [step_cons hinputs]
    cases i with
    | assertReset => exact ⟨_, rfl⟩
    | releaseReset => exact ⟨_, rfl⟩
    | take a =>
      cases hreset : s.inReset with
      | true => exact ⟨_, acceptInput_take_inReset (s := setInputs rest s) hreset a⟩
      | false =>
        cases hqueue : queueOf a s with
        | nil => exact ⟨setInputs rest s, by simp [acceptInput, hreset, takeRequest, hqueue]⟩
        | cons r q =>
          rw [← step_cons hinputs, step_take hinputs hreset hqueue]
          exact perform_completes (inv_setQueue (s := setInputs rest s) hinv) r

/-! ### What the producer and the drain agent leave -/

/-- What the statement about the agents' roles lists: the operands, results and completion code, the table, the rate,
`cfg`, the capacity and the outputs (R21, R223). -/
def hostView (s : State) :
    (Word × Half × Word × Word × Completion) × (Vector Profile 7 × Bool × Fin 7 × Bool × Half) × Bool × Bool × Bool :=
  ((s.arg0, s.arg1, s.res0, s.res1, s.cstat), (s.prof, s.tableReady, s.rateIndex, s.cfg, s.capacity),
    irqEn s, clkRun s, s.ampEn)

/-- `SUBMIT` and `DRAIN` write none of it. -/
theorem exec_keeps_hostView {i : Instr} {s t : State} (hi : i.op = .submit ∨ i.op = .drain)
    (h : exec i s = .next t) : hostView t = hostView s := by
  rw [exec_footprint h]
  cases i with
  | submit _ | drain _ => rfl
  | _ => simp [Instr.op] at hi

/-- A request that issues a command is a write of its word to `CMD` (R37). -/
theorem issuedCommand_eq_some {depth : Nat} {r : Request} {i : Instr} (h : issuedCommand depth r = some i) :
    ∃ v, r = .write32 0x00#32 v ∧ decode depth v = .command i := by
  cases r with
  | write32 a v =>
    unfold issuedCommand at h
    dsimp only at h
    split_ifs at h with ha
    cases hdecode : decode depth v with
    | command j =>
      obtain rfl : j = i := by simpa [hdecode] using h
      exact ⟨v, by rw [ha], hdecode⟩
    | illegal why => simp [hdecode] at h
  | read32 _ | read8 _ | write8 _ _ => simp [issuedCommand] at h

/-- The drain agent only drains (R80, R223). -/
theorem keepsRole_drain {depth : Nat} {r : Request} (h : keepsRole depth .drain r = true) :
    ∃ n, issuedCommand depth r = some (.drain n) := by
  cases hissued : issuedCommand depth r with
  | none => cases r <;> simp [keepsRole, hissued] at h
  | some i =>
    cases i with
    | drain n => exact ⟨n, rfl⟩
    | _ => cases r <;> simp [keepsRole, hissued] at h

/-- The producer submits packets, and makes no other 32-bit write (R80, R223). -/
theorem keepsRole_producer {depth : Nat} {a v : Word} (h : keepsRole depth .producer (.write32 a v) = true) :
    ∃ l, issuedCommand depth (.write32 a v) = some (.submit l) := by
  cases hissued : issuedCommand depth (.write32 a v) with
  | none => simp [keepsRole, hissued] at h
  | some i =>
    cases i with
    | submit l => exact ⟨l, rfl⟩
    | _ => simp [keepsRole, hissued] at h

/-- What a request of either agent in its role is. -/
theorem keepsRole_cases {depth : Nat} {a : Agent} {r : Request} (ha : a ≠ .host) (h : keepsRole depth a r = true) :
    (∃ i, issuedCommand depth r = some i ∧ (i.op = .submit ∨ i.op = .drain)) ∨ ∀ b v, r ≠ .write32 b v := by
  cases a with
  | host => exact absurd rfl ha
  | drain =>
    obtain ⟨n, hn⟩ := keepsRole_drain h
    exact .inl ⟨_, hn, .inr rfl⟩
  | producer =>
    cases r with
    | write32 b v =>
      obtain ⟨l, hl⟩ := keepsRole_producer h
      exact .inl ⟨_, hl, .inl rfl⟩
    | read32 _ | read8 _ | write8 _ _ => exact .inr (by simp)

/-- A request that is no 32-bit write leaves it: it reads, writes a byte, or is a bus error (R62 to R66). -/
theorem perform_keeps_hostView {r : Request} {s t : State} (hr : ∀ b v, r ≠ .write32 b v)
    (h : perform r s = .next t) : hostView t = hostView s := by
  cases r with
  | write32 b v => exact absurd rfl (hr b v)
  | read32 a =>
    obtain rfl := Host.Outcome.next.inj h
    unfold busRead
    split <;> rfl
  | read8 a =>
    obtain rfl := Host.Outcome.next.inj h
    unfold busRead8
    split <;> rfl
  | write8 a v =>
    obtain rfl := Host.Outcome.next.inj h
    unfold busWrite8
    split <;> rfl

theorem hostView_setQueue (a : Agent) (q : List Request) (s : State) : hostView (setQueue a q s) = hostView s := by
  cases a <;> rfl

/-- Settles O52: a request in the agent's role is a `SUBMIT`, a `DRAIN`, or no 32-bit write. -/
theorem producerAndDrainLeaveTheHostsState : Obligations.ProducerAndDrainLeaveTheHostsState := by
  intro s t a r q rest ha hinputs hreset hqueue hrole hstep
  rw [step_take hinputs hreset hqueue] at hstep
  have hfrom : hostView (setQueue a q (setInputs rest s)) = hostView s := hostView_setQueue a q (setInputs rest s)
  have hview : hostView t = hostView s := by
    rw [← hfrom]
    rcases keepsRole_cases ha hrole with ⟨i, hissued, hi⟩ | hr
    · obtain ⟨v, rfl, hdecode⟩ := issuedCommand_eq_some hissued
      rw [perform_cmd, issueCommand_command (by simpa using hdecode)] at hstep
      exact (exec_keeps_hostView hi hstep :)
    · exact perform_keeps_hostView hr hstep
  simpa only [hostView, Prod.mk.injEq, and_assoc] using hview

end Sys2Proof.Machine
